-- ==== Sys2Proof/Word.lean ====
section
/-!
DEFINITION. The two widths RFDEC's data have (00_scope.md R7, R9): the device byte and the 16-bit operation or result word.
-/

namespace Sys2Proof

/-- One device register byte, bit 7 the most significant (00_scope.md R7, R9). -/
abbrev Byte := BitVec 8

/-- One operation word or result, moved whole and so without a byte order (20_memory.md R40). -/
abbrev Word := BitVec 16

end Sys2Proof
end

