-- ==== Sys2Proof/Syntax.lean ====
section
/-!
DEFINITION. The operations of RFDEC, one constructor per row of spec/opcode_table.json (30_encoding.md R63).
-/

namespace Sys2Proof

/-- An operation (30_encoding.md R51 to R53). The three rows of IM_CONTAINS, one per interrupt source, are three constructors
(DESIGN CHOICE, safe: notes/assumptions/6.md). The loads carry IMM8, the raw device byte (R55). -/
inductive Instr where
  /-- SR_LOAD b (40_status_register.md R64). -/
  | srLoad (b : Byte)
  /-- SR_RAW (R65). -/
  | srRaw
  /-- SR_VALID (R66). -/
  | srValid
  /-- SR_DR (R67). -/
  | srDr
  /-- SR_DS (R68). -/
  | srDs
  /-- SR_RT (R69). -/
  | srRt
  /-- SR_PIPE (R71). -/
  | srPipe
  /-- SR_TXF (R73). -/
  | srTxf
  /-- SR_REPORT (R72). -/
  | srReport
  /-- FR_LOAD b (41_fifo_status.md R76). -/
  | frLoad (b : Byte)
  /-- FR_TXFULL (R77). -/
  | frTxFull
  /-- FR_TXEMPTY (R78). -/
  | frTxEmpty
  /-- FR_RXFULL (R79). -/
  | frRxFull
  /-- FR_RXEMPTY (R80). -/
  | frRxEmpty
  /-- IM_EMPTY (42_interrupt_mask.md R82). -/
  | imEmpty
  /-- IM_ALL (R83). -/
  | imAll
  /-- IM_WITH_TF (R84). -/
  | imWithTf
  /-- IM_WITH_TO (R85). -/
  | imWithTo
  /-- IM_WITH_DR (R86). -/
  | imWithDr
  /-- IM_CONTAINS TF (R87). -/
  | imContainsTf
  /-- IM_CONTAINS TO (R87). -/
  | imContainsTo
  /-- IM_CONTAINS DR (R87). -/
  | imContainsDr
  /-- IM_LOAD b (R88). -/
  | imLoad (b : Byte)
  /-- IM_RAW (R89). -/
  | imRaw
  deriving DecidableEq, Repr

end Sys2Proof
end

