-- ==== Sys2Proof/WellFormed.lean ====
section
/-!
DEFINITION. The fields of an operation word (30_encoding.md R49) and the seven checks that make a word legal (R57). Instr itself
carries no operand that could be out of range, so what is well-formed or not is the word's fields.
-/

namespace Sys2Proof

/-- The four fields of an operation word (30_encoding.md R49). -/
structure OpFields where
  /-- Bits 15:14, the functional unit (R50). -/
  unit : BitVec 2
  /-- Bits 13:10, the function within the unit (R51 to R53). -/
  fn : BitVec 4
  /-- Bits 9:8, the interrupt source (R54). -/
  src : BitVec 2
  /-- Bits 7:0, the data byte of a load (R55). -/
  imm8 : Byte
  deriving DecidableEq, Repr

/-- Why a word is illegal: the seven conditions of 30_encoding.md R57, in its order. No register shows which one it was
(DESIGN CHOICE, safe: notes/assumptions/10.md). -/
inductive Illegality where
  /-- Condition 1: UNIT is 0b11. -/
  | unitReserved
  /-- Condition 2: a reserved FN of unit SR. -/
  | srFnReserved
  /-- Condition 3: a reserved FN of unit FR. -/
  | frFnReserved
  /-- Condition 4: a reserved FN of unit IM. -/
  | imFnReserved
  /-- Condition 5: SRC is 0b11 in IM_WITH_* or IM_CONTAINS. -/
  | srcReserved
  /-- Condition 6: SRC is not zero in any other operation. -/
  | srcNotZero
  /-- Condition 7: IMM8 is not zero in an operation that is no load. -/
  | imm8NotZero
  deriving DecidableEq, Repr

/-- IM_WITH_* or IM_CONTAINS: the operations that use SRC (30_encoding.md R53). -/
def OpFields.usesSrc (f : OpFields) : Bool :=
  f.unit == 0b10#2 && (f.fn == 0x2#4 || f.fn == 0x3#4)

/-- SR_LOAD, FR_LOAD or IM_LOAD: the operations that use IMM8 (30_encoding.md R49, R55). -/
def OpFields.usesImm8 (f : OpFields) : Bool :=
  (f.unit == 0b00#2 && f.fn == 0x0#4) || (f.unit == 0b01#2 && f.fn == 0x0#4) || (f.unit == 0b10#2 && f.fn == 0x4#4)

/-- The first of the conditions of 30_encoding.md R57 that holds, if any does. -/
def OpFields.illegality (f : OpFields) : Option Illegality :=
  if f.unit == 0b11#2 then some .unitReserved
  else if f.unit == 0b00#2 && f.fn ≥ 0x9#4 then some .srFnReserved
  else if f.unit == 0b01#2 && f.fn ≥ 0x5#4 then some .frFnReserved
  else if f.unit == 0b10#2 && f.fn ≥ 0x6#4 then some .imFnReserved
  else if f.usesSrc && f.src == 0b11#2 then some .srcReserved
  else if !f.usesSrc && f.src != 0b00#2 then some .srcNotZero
  else if !f.usesImm8 && f.imm8 != 0x00#8 then some .imm8NotZero
  else none

/-- Whether a word with these fields is legal (30_encoding.md R57). -/
def OpFields.wellFormed (f : OpFields) : Bool := f.illegality.isNone

end Sys2Proof
end

