-- ==== Sys2Proof/Decode.lean ====
section
/-!
DEFINITION. Decoding an operation word, total on all 65536 words (30_encoding.md R60), and encoding an operation (R63).
-/

namespace Sys2Proof

/-- The fields of a word (30_encoding.md R49). -/
def fieldsOf (w : Word) : OpFields :=
  { unit := w.extractLsb' 14 2, fn := w.extractLsb' 10 4, src := w.extractLsb' 8 2, imm8 := w.extractLsb' 0 8 }

/-- The word with these fields, UNIT highest (30_encoding.md R49). -/
def wordOf (f : OpFields) : Word := f.unit ++ f.fn ++ f.src ++ f.imm8

/-- An operation with no operand: SRC and IMM8 must be zero (30_encoding.md R56). -/
def decodePlain (f : OpFields) (i : Instr) : Except Illegality Instr :=
  if f.src ≠ 0b00#2 then .error .srcNotZero
  else if f.imm8 ≠ 0x00#8 then .error .imm8NotZero
  else .ok i

/-- A load: SRC must be zero, IMM8 is the byte (30_encoding.md R55, R56). -/
def decodeLoad (f : OpFields) (load : Byte → Instr) : Except Illegality Instr :=
  if f.src ≠ 0b00#2 then .error .srcNotZero else .ok (load f.imm8)

/-- An operation that SRC selects: 0b00 TF, 0b01 TO, 0b10 DR, 0b11 reserved (30_encoding.md R54). -/
def decodeBySource (f : OpFields) (failed ok ready : Instr) : Except Illegality Instr :=
  if f.src = 0b11#2 then .error .srcReserved
  else if f.imm8 ≠ 0x00#8 then .error .imm8NotZero
  else .ok (if f.src = 0b00#2 then failed else if f.src = 0b01#2 then ok else ready)

/-- FN in unit SR (30_encoding.md R51). -/
def decodeSrUnit (f : OpFields) : Except Illegality Instr :=
  match f.fn.toNat with
  | 0x0 => decodeLoad f .srLoad
  | 0x1 => decodePlain f .srRaw
  | 0x2 => decodePlain f .srValid
  | 0x3 => decodePlain f .srDr
  | 0x4 => decodePlain f .srDs
  | 0x5 => decodePlain f .srRt
  | 0x6 => decodePlain f .srPipe
  | 0x7 => decodePlain f .srTxf
  | 0x8 => decodePlain f .srReport
  | _ => .error .srFnReserved

/-- FN in unit FR (30_encoding.md R52). -/
def decodeFrUnit (f : OpFields) : Except Illegality Instr :=
  match f.fn.toNat with
  | 0x0 => decodeLoad f .frLoad
  | 0x1 => decodePlain f .frTxFull
  | 0x2 => decodePlain f .frTxEmpty
  | 0x3 => decodePlain f .frRxFull
  | 0x4 => decodePlain f .frRxEmpty
  | _ => .error .frFnReserved

/-- FN in unit IM (30_encoding.md R53). -/
def decodeImUnit (f : OpFields) : Except Illegality Instr :=
  match f.fn.toNat with
  | 0x0 => decodePlain f .imEmpty
  | 0x1 => decodePlain f .imAll
  | 0x2 => decodeBySource f .imWithTf .imWithTo .imWithDr
  | 0x3 => decodeBySource f .imContainsTf .imContainsTo .imContainsDr
  | 0x4 => decodeLoad f .imLoad
  | 0x5 => decodePlain f .imRaw
  | _ => .error .imFnReserved

/-- UNIT (30_encoding.md R50). -/
def decodeFields (f : OpFields) : Except Illegality Instr :=
  match f.unit.toNat with
  | 0b00 => decodeSrUnit f
  | 0b01 => decodeFrUnit f
  | 0b10 => decodeImUnit f
  | _ => .error .unitReserved

/-- The decoder: every word is one operation or illegal, with the reason (30_encoding.md R58, R60). -/
def decode (w : Word) : Except Illegality Instr := decodeFields (fieldsOf w)

/-- The fields of each operation, from the encoding tables 30_encoding.md R50 to R54. -/
def instrFields : Instr → OpFields
  | .srLoad b => ⟨0b00#2, 0x0#4, 0b00#2, b⟩
  | .srRaw => ⟨0b00#2, 0x1#4, 0b00#2, 0x00#8⟩
  | .srValid => ⟨0b00#2, 0x2#4, 0b00#2, 0x00#8⟩
  | .srDr => ⟨0b00#2, 0x3#4, 0b00#2, 0x00#8⟩
  | .srDs => ⟨0b00#2, 0x4#4, 0b00#2, 0x00#8⟩
  | .srRt => ⟨0b00#2, 0x5#4, 0b00#2, 0x00#8⟩
  | .srPipe => ⟨0b00#2, 0x6#4, 0b00#2, 0x00#8⟩
  | .srTxf => ⟨0b00#2, 0x7#4, 0b00#2, 0x00#8⟩
  | .srReport => ⟨0b00#2, 0x8#4, 0b00#2, 0x00#8⟩
  | .frLoad b => ⟨0b01#2, 0x0#4, 0b00#2, b⟩
  | .frTxFull => ⟨0b01#2, 0x1#4, 0b00#2, 0x00#8⟩
  | .frTxEmpty => ⟨0b01#2, 0x2#4, 0b00#2, 0x00#8⟩
  | .frRxFull => ⟨0b01#2, 0x3#4, 0b00#2, 0x00#8⟩
  | .frRxEmpty => ⟨0b01#2, 0x4#4, 0b00#2, 0x00#8⟩
  | .imEmpty => ⟨0b10#2, 0x0#4, 0b00#2, 0x00#8⟩
  | .imAll => ⟨0b10#2, 0x1#4, 0b00#2, 0x00#8⟩
  | .imWithTf => ⟨0b10#2, 0x2#4, 0b00#2, 0x00#8⟩
  | .imWithTo => ⟨0b10#2, 0x2#4, 0b01#2, 0x00#8⟩
  | .imWithDr => ⟨0b10#2, 0x2#4, 0b10#2, 0x00#8⟩
  | .imContainsTf => ⟨0b10#2, 0x3#4, 0b00#2, 0x00#8⟩
  | .imContainsTo => ⟨0b10#2, 0x3#4, 0b01#2, 0x00#8⟩
  | .imContainsDr => ⟨0b10#2, 0x3#4, 0b10#2, 0x00#8⟩
  | .imLoad b => ⟨0b10#2, 0x4#4, 0b00#2, b⟩
  | .imRaw => ⟨0b10#2, 0x5#4, 0b00#2, 0x00#8⟩

/-- The encoder: the one word of each operation (30_encoding.md R63). -/
def encode (i : Instr) : Word := wordOf (instrFields i)

/-- What the decoder reads from bits numbered as spec/opcode_table.json numbers them. The one operation word is 16 bits and
moves whole (20_memory.md R40); a longer number is no operation word. -/
def decodeTableWord (nbits w : Nat) : Option Instr :=
  if nbits ≤ 16 ∧ w < 2 ^ 16 then (decode (BitVec.ofNat 16 w)).toOption else none

end Sys2Proof
end

