-- ==== Sys2Proof/Config.lean ====
section
/-!
DEFINITION. What is fixed for the machine as a whole (00_scope.md R7). The spec leaves no parameter and no result open, so
there is no free value here. The bit positions are beside the operations that use them (Machine/Operands.lean, Machine/Flags.lean).
-/

namespace Sys2Proof.Config

/-- The number of receive pipes, with indices 0 to 5 (00_scope.md R7, R8). -/
abbrev pipeCount : Nat := 6

/-- What SR, FR and MR hold at reset.
DESIGN CHOICE, unsafe (notes/assumptions/4.md): 10_state.md R37 leaves the value unspecified and unobservable. -/
def holdingReset : Byte := 0x00#8

end Sys2Proof.Config
end

