-- ==== Sys2Proof/Machine/Operands.lean ====
section
/-!
DEFINITION. The operands and results of the operations: interrupt sources and their mask bits (42_interrupt_mask.md R81), pipe
indices (00_scope.md R8), the structured report (40_status_register.md R72), and how each is packed (10_state.md R29, R30).
-/

namespace Sys2Proof.Machine

/-- An interrupt source (00_scope.md R12): transmission-failed, transmission-ok, data-ready. -/
inductive Source where
  /-- Transmission-failed. -/
  | txFailed
  /-- Transmission-ok. -/
  | txOk
  /-- Data-ready. -/
  | dataReady
  deriving DecidableEq, Repr

/-- The bit of MR each source owns (42_interrupt_mask.md R81). -/
def bitOf : Source → Nat
  | .txFailed => 4
  | .txOk => 5
  | .dataReady => 6

/-- The byte with only that source's bit set: `bit(bit_of(s))` (00_scope.md R10, 42_interrupt_mask.md R81). -/
def sourceMask (s : Source) : Byte := BitVec.twoPow 8 (bitOf s)

/-- ALL_MASK, 0x70: the three defined bits (42_interrupt_mask.md R81). -/
def allMask : Byte := sourceMask .txFailed ||| sourceMask .txOk ||| sourceMask .dataReady

/-- The kinds of value RESULT can hold (10_state.md R29). -/
inductive Kind where
  /-- No value. -/
  | none
  /-- A byte. -/
  | byte
  /-- A truth value. -/
  | bool
  /-- An optional pipe index. -/
  | pipe
  /-- A status report. -/
  | report
  deriving DecidableEq, Repr

/-- The code of a kind in RKIND (10_state.md R29). -/
def kindCode : Kind → BitVec 3
  | .none => 0b000#3
  | .byte => 0b001#3
  | .bool => 0b010#3
  | .pipe => 0b011#3
  | .report => 0b100#3

/-- The causes of a fault (60_exceptions.md R91 to R93). -/
inductive FaultCause where
  /-- The pipe field of SR holds the reserved encoding 6 (R91). -/
  | reservedPipe
  /-- The word is illegal (R92). -/
  | illegalOp
  /-- A holding register was read before it was written (R93). -/
  | undefinedRead
  deriving DecidableEq, Repr

/-- The code of a cause in FCAUSE (10_state.md R32). -/
def causeCode : FaultCause → BitVec 2
  | .reservedPipe => 0b01#2
  | .illegalOp => 0b10#2
  | .undefinedRead => 0b11#2

/-- A receive-pipe index, 0 to 5 (00_scope.md R8). -/
abbrev DataPipeIndex := Fin Config.pipeCount

/-- The present bit and the index: `{present, index[2:0]}`, zero when there is no pipe (40_status_register.md R71). -/
def pipeBits : Option DataPipeIndex → BitVec 4
  | .none => 0b0000#4
  | .some p => 1#1 ++ BitVec.ofNat 3 p.val

/-- The five facts of a valid status (40_status_register.md R72). -/
structure StatusReport where
  /-- Data-ready. -/
  dataReady : Bool
  /-- Data-sent. -/
  dataSent : Bool
  /-- Retries-exhausted. -/
  retriesExhausted : Bool
  /-- The pipe with data, if any. -/
  pipe : Option DataPipeIndex
  /-- Transmit queue full. -/
  txFull : Bool
  deriving DecidableEq, Repr

/-- The nine bits of a report, VALID highest; all zero for an invalid status (40_status_register.md R72). -/
def reportBits : Option StatusReport → BitVec 9
  | .none => 0#9
  | .some r => 1#1 ++ BitVec.ofBool r.dataReady ++ BitVec.ofBool r.dataSent ++ BitVec.ofBool r.retriesExhausted
      ++ pipeBits r.pipe ++ BitVec.ofBool r.txFull

end Sys2Proof.Machine
end

