-- ==== Sys2Proof/Machine/Flags.lean ====
section
/-!
DEFINITION. Every flag and field the units extract from a held byte: the status byte (10_state.md R22, R23), the FIFO status
byte (R25), the interrupt mask (R27). Each is total and reads its own bits only (40_status_register.md R74).
-/

namespace Sys2Proof.Machine

/-- INV, bit 7 of the status byte: set when the status is invalid (10_state.md R22). -/
def srInvalid (b : Byte) : Bool := b.getLsbD 7

/-- `is_valid()` (40_status_register.md R66). -/
def srIsValid (b : Byte) : Bool := !srInvalid b

/-- DR, bit 6 (40_status_register.md R67). -/
def srDataReady (b : Byte) : Bool := b.getLsbD 6

/-- DS, bit 5 (40_status_register.md R68). -/
def srDataSent (b : Byte) : Bool := b.getLsbD 5

/-- RT, bit 4 (40_status_register.md R69). -/
def srRetriesExhausted (b : Byte) : Bool := b.getLsbD 4

/-- PIPE, bits 3:1 (10_state.md R22). -/
def srPipeField (b : Byte) : BitVec 3 := b.extractLsb' 1 3

/-- TXF, bit 0 (40_status_register.md R73). -/
def srTxFull (b : Byte) : Bool := b.getLsbD 0

/-- `pipe_decode` (40_status_register.md R70): 0 to 5 an index, 7 no pipe, 6 the fault and never a value. -/
def pipeDecode (b : Byte) : Except FaultCause (Option DataPipeIndex) :=
  if h : (srPipeField b).toNat < Config.pipeCount then .ok (some ⟨(srPipeField b).toNat, h⟩)
  else if srPipeField b = 0b111#3 then .ok none
  else .error .reservedPipe

/-- The structured report (40_status_register.md R72): nothing of an invalid status is interpreted. -/
def srReport (b : Byte) : Except FaultCause (Option StatusReport) :=
  if srInvalid b then .ok none
  else
    match pipeDecode b with
    | .error c => .error c
    | .ok p =>
      .ok (some
        { dataReady := srDataReady b, dataSent := srDataSent b, retriesExhausted := srRetriesExhausted b
          pipe := p, txFull := srTxFull b })

/-- TX_FULL, bit 5 of the FIFO status byte (41_fifo_status.md R77). -/
def frTxIsFull (b : Byte) : Bool := b.getLsbD 5

/-- TX_EMPTY, bit 4 (41_fifo_status.md R78). -/
def frTxIsEmpty (b : Byte) : Bool := b.getLsbD 4

/-- RX_FULL, bit 1 (41_fifo_status.md R79). -/
def frRxIsFull (b : Byte) : Bool := b.getLsbD 1

/-- RX_EMPTY, bit 0 (41_fifo_status.md R80). -/
def frRxIsEmpty (b : Byte) : Bool := b.getLsbD 0

/-- `contains(source)`: that source's bit of the mask (42_interrupt_mask.md R87). -/
def maskContains (m : Byte) (s : Source) : Bool := m.getLsbD (bitOf s)

/-- The mask with that source's bit set, the others untouched (42_interrupt_mask.md R84 to R86). -/
def maskWith (m : Byte) (s : Source) : Byte := m ||| sourceMask s

/-- The sanitised byte: bits outside ALL_MASK are dropped (42_interrupt_mask.md R88). -/
def sanitize (b : Byte) : Byte := b &&& allMask

end Sys2Proof.Machine
end

