-- ==== Sys2Proof/Machine/State.lean ====
section
/-!
DEFINITION. RFDEC's whole architectural state (10_state.md R15), the host's inputs, the reasons a step can stop, and the state
after reset (R37). The spec gives the machine no memory and no program counter (20_memory.md R38, 10_state.md R20).
-/

namespace Sys2Proof.Machine

/-- One sample of the input port (10_state.md R36). -/
structure PortIn where
  /-- `rst`, the reset request (70_reset_and_hazards.md R109). -/
  rst : Bool
  /-- `op_valid`: the host presents an operation. -/
  opValid : Bool
  /-- `op_word`: the operation word. -/
  opWord : Word
  deriving DecidableEq, Repr

/-- The registers of 10_state.md R15, each under its own name, and what the host presents. A one-bit register is a Bool
(DESIGN CHOICE, safe: notes/assumptions/7.md). -/
structure State where
  /-- SR, the status byte (R16, R22). -/
  sr : Byte
  /-- FR, the FIFO status byte (R17, R25). -/
  fr : Byte
  /-- MR, the interrupt mask (R18, R27). -/
  mr : Byte
  /-- SR_DEF: SR has been written since reset (R33). -/
  srDef : Bool
  /-- FR_DEF: FR has been written since reset (R33). -/
  frDef : Bool
  /-- MR_DEF: MR has been written since reset (R33). -/
  mrDef : Bool
  /-- RESULT, the last accepted operation's value (R28). -/
  result : Word
  /-- RKIND, the kind of the value in RESULT (R29). -/
  rkind : BitVec 3
  /-- FAULT: a fault has been taken since reset (R31). -/
  fault : Bool
  /-- FCAUSE, the cause of that fault (R32). -/
  fcause : BitVec 2
  /-- FOP, the operation word that faulted (R32). -/
  fop : Word
  /-- The samples of the input port the host presents, the next one first (R20, R36). The MODEL's own field
  (DESIGN CHOICE, unsafe: notes/assumptions/1.md). -/
  inputs : List PortIn
  deriving DecidableEq, Repr

/-- Why a step stops. -/
inductive Fault where
  /-- The block is faulted, so a presented operation has no step, and nothing the host presents is a reset
  (60_exceptions.md R98, R101). Raised by `step` and by every operation's meaning in a faulted state. Safe: the model stops
  where the block waits for a reset for ever. -/
  | stuck
  deriving DecidableEq, Repr

/-- Why a step has no meaning. -/
inductive Refusal where
  /-- No meaning written for this operation. No arm raises it: every operation has its meaning. Safe. -/
  | notModelled (mnemonic : String)
  deriving DecidableEq, Repr

/-- The outcome of a step of this machine. -/
abbrev Out := Host.Outcome State Fault Refusal

/-- The state right after reset (10_state.md R37). SR, FR and MR hold a value the model names
(DESIGN CHOICE, unsafe: notes/assumptions/4.md); the host presents nothing yet (notes/assumptions/1.md). -/
def State.reset : State :=
  { sr := Config.holdingReset, fr := Config.holdingReset, mr := Config.holdingReset
    srDef := false, frDef := false, mrDef := false
    result := 0x0000#16, rkind := 0b000#3
    fault := false, fcause := 0b00#2, fop := 0x0000#16
    inputs := [] }

end Sys2Proof.Machine
end

