-- ==== Sys2Proof/Machine/Ops.lean ====
section
/-!
DEFINITION. The shared operations: the result primitives (10_state.md R30), the writes and reads of the holding registers with
their defined bits (R33), fault entry (60_exceptions.md R95) and reset, the only way out of a fault (70_reset_and_hazards.md R109).
-/

namespace Sys2Proof.Machine

/-- Write RESULT and RKIND together (10_state.md R30). -/
def State.setResult (s : State) (v : Word) (k : Kind) : State := { s with result := v, rkind := kindCode k }

/-- `result_none()` (10_state.md R30). -/
def State.resultNone (s : State) : State := s.setResult 0x0000#16 .none

/-- `result_byte(b)` (10_state.md R30). -/
def State.resultByte (s : State) (b : Byte) : State := s.setResult (b.setWidth 16) .byte

/-- `result_bool(f)` (10_state.md R30). -/
def State.resultBool (s : State) (f : Bool) : State := s.setResult ((BitVec.ofBool f).setWidth 16) .bool

/-- `result_pipe(p)` (10_state.md R30). -/
def State.resultPipe (s : State) (p : Option DataPipeIndex) : State := s.setResult ((pipeBits p).setWidth 16) .pipe

/-- `result_report(r)` (10_state.md R30). -/
def State.resultReport (s : State) (r : Option StatusReport) : State := s.setResult ((reportBits r).setWidth 16) .report

/-- Write SR and set SR_DEF in the same step (10_state.md R16, R33). -/
def State.writeSr (s : State) (b : Byte) : State := { s with sr := b, srDef := true }

/-- Write FR and set FR_DEF in the same step (10_state.md R17, R33). -/
def State.writeFr (s : State) (b : Byte) : State := { s with fr := b, frDef := true }

/-- Write MR and set MR_DEF in the same step (10_state.md R18, R33). -/
def State.writeMr (s : State) (b : Byte) : State := { s with mr := b, mrDef := true }

/-- Fault entry: exactly FAULT, FCAUSE and FOP are written (60_exceptions.md R95). -/
def State.takeFault (s : State) (c : FaultCause) (w : Word) : State :=
  { s with fault := true, fcause := causeCode c, fop := w }

/-- Reset: every register takes its reset value, and what the host presents next is kept (70_reset_and_hazards.md R109). There
is no other return from a fault (60_exceptions.md R99). -/
def State.applyReset (s : State) : State := { State.reset with inputs := s.inputs }

/-- A faulted block accepts no operation (60_exceptions.md R97 check 1, R98). -/
def accept (s : State) (k : Out) : Out := if s.fault then .fault .stuck else k

/-- An illegal word raises IllegalOp (60_exceptions.md R92, R97 check 2). -/
def illegalWord (w : Word) (s : State) : Out := accept s (.next (s.takeFault .illegalOp w))

/-- `require_defined(D)` for operation `i` (00_scope.md R11; 60_exceptions.md R93, R97 check 3). The word that FOP records is
the operation's one encoding (DEDUCED, safe: notes/assumptions/5.md). -/
def requireDefined (i : Instr) (d : Bool) (s : State) (k : Out) : Out :=
  if d then k else .next (s.takeFault .undefinedRead (encode i))

/-- Operation `i` reads SR. -/
def withSr (i : Instr) (s : State) (k : Byte → Out) : Out := accept s (requireDefined i s.srDef s (k s.sr))

/-- Operation `i` reads FR. -/
def withFr (i : Instr) (s : State) (k : Byte → Out) : Out := accept s (requireDefined i s.frDef s (k s.fr))

/-- Operation `i` reads MR. -/
def withMr (i : Instr) (s : State) (k : Byte → Out) : Out := accept s (requireDefined i s.mrDef s (k s.mr))

/-- Go on with a decoded value, or take the fault its decoding raised: never a substitute value
(60_exceptions.md R97 check 4, R108). -/
def orFault {α : Type} (i : Instr) (s : State) (r : Except FaultCause α) (k : α → State) : Out :=
  match r with
  | .ok v => .next (k v)
  | .error c => .next (s.takeFault c (encode i))

end Sys2Proof.Machine
end

