-- ==== Sys2Proof/Machine/FifoUnit.lean ====
section
/-!
DEFINITION. The operations of unit FR (41_fifo_status.md). The flags carry no cross-field invariant (10_state.md R26).
-/

namespace Sys2Proof.Machine

/-- FR_LOAD: the byte is stored unchanged (41_fifo_status.md R76). -/
def execFrLoad (b : Byte) (s : State) : Out := accept s (.next (s.writeFr b).resultNone)

/-- FR_TXFULL (41_fifo_status.md R77). -/
def execFrTxFull (s : State) : Out := withFr .frTxFull s fun b => .next (s.resultBool (frTxIsFull b))

/-- FR_TXEMPTY (41_fifo_status.md R78). -/
def execFrTxEmpty (s : State) : Out := withFr .frTxEmpty s fun b => .next (s.resultBool (frTxIsEmpty b))

/-- FR_RXFULL (41_fifo_status.md R79). -/
def execFrRxFull (s : State) : Out := withFr .frRxFull s fun b => .next (s.resultBool (frRxIsFull b))

/-- FR_RXEMPTY (41_fifo_status.md R80). -/
def execFrRxEmpty (s : State) : Out := withFr .frRxEmpty s fun b => .next (s.resultBool (frRxIsEmpty b))

end Sys2Proof.Machine
end

