-- ==== Sys2Proof/Machine/MaskUnit.lean ====
section
/-!
DEFINITION. The operations of unit IM (42_interrupt_mask.md). Every writer keeps MR within ALL_MASK (10_state.md R19).
-/

namespace Sys2Proof.Machine

/-- IM_EMPTY: also starts a mask when MR_DEF is 0 (42_interrupt_mask.md R82). -/
def execImEmpty (s : State) : Out := accept s (.next (s.writeMr 0x00#8).resultNone)

/-- IM_ALL (42_interrupt_mask.md R83). -/
def execImAll (s : State) : Out := accept s (.next (s.writeMr allMask).resultNone)

/-- IM_WITH_TF (42_interrupt_mask.md R84). -/
def execImWithTf (s : State) : Out := withMr .imWithTf s fun m => .next (s.writeMr (maskWith m .txFailed)).resultNone

/-- IM_WITH_TO (42_interrupt_mask.md R85). -/
def execImWithTo (s : State) : Out := withMr .imWithTo s fun m => .next (s.writeMr (maskWith m .txOk)).resultNone

/-- IM_WITH_DR (42_interrupt_mask.md R86). -/
def execImWithDr (s : State) : Out := withMr .imWithDr s fun m => .next (s.writeMr (maskWith m .dataReady)).resultNone

/-- IM_CONTAINS TF (42_interrupt_mask.md R87). -/
def execImContainsTf (s : State) : Out := withMr .imContainsTf s fun m => .next (s.resultBool (maskContains m .txFailed))

/-- IM_CONTAINS TO (42_interrupt_mask.md R87). -/
def execImContainsTo (s : State) : Out := withMr .imContainsTo s fun m => .next (s.resultBool (maskContains m .txOk))

/-- IM_CONTAINS DR (42_interrupt_mask.md R87). -/
def execImContainsDr (s : State) : Out := withMr .imContainsDr s fun m => .next (s.resultBool (maskContains m .dataReady))

/-- IM_LOAD: stray bits are dropped (42_interrupt_mask.md R88). -/
def execImLoad (b : Byte) (s : State) : Out := accept s (.next (s.writeMr (sanitize b)).resultNone)

/-- IM_RAW (42_interrupt_mask.md R89). -/
def execImRaw (s : State) : Out := withMr .imRaw s fun m => .next (s.resultByte m)

end Sys2Proof.Machine
end

