-- ==== Sys2Proof/Machine/StatusUnit.lean ====
section
/-!
DEFINITION. The operations of unit SR (40_status_register.md). No accessor checks validity; only SR_REPORT does (R74).
-/

namespace Sys2Proof.Machine

/-- SR_LOAD: the byte is stored unchanged, whatever it is (40_status_register.md R64). -/
def execSrLoad (b : Byte) (s : State) : Out := accept s (.next (s.writeSr b).resultNone)

/-- SR_RAW (40_status_register.md R65). -/
def execSrRaw (s : State) : Out := withSr .srRaw s fun b => .next (s.resultByte b)

/-- SR_VALID (40_status_register.md R66). -/
def execSrValid (s : State) : Out := withSr .srValid s fun b => .next (s.resultBool (srIsValid b))

/-- SR_DR (40_status_register.md R67). -/
def execSrDr (s : State) : Out := withSr .srDr s fun b => .next (s.resultBool (srDataReady b))

/-- SR_DS (40_status_register.md R68). -/
def execSrDs (s : State) : Out := withSr .srDs s fun b => .next (s.resultBool (srDataSent b))

/-- SR_RT (40_status_register.md R69). -/
def execSrRt (s : State) : Out := withSr .srRt s fun b => .next (s.resultBool (srRetriesExhausted b))

/-- SR_PIPE (40_status_register.md R71). -/
def execSrPipe (s : State) : Out := withSr .srPipe s fun b => orFault .srPipe s (pipeDecode b) s.resultPipe

/-- SR_TXF (40_status_register.md R73). -/
def execSrTxf (s : State) : Out := withSr .srTxf s fun b => .next (s.resultBool (srTxFull b))

/-- SR_REPORT (40_status_register.md R72). -/
def execSrReport (s : State) : Out := withSr .srReport s fun b => orFault .srReport s (srReport b) s.resultReport

end Sys2Proof.Machine
end

