-- ==== Sys2Proof/Machine/Dispatch.lean ====
section
/-!
DEFINITION. One arm per operation, each one call of its meaning.
-/

namespace Sys2Proof.Machine

/-- The meaning of every operation (60_exceptions.md R101). -/
def exec (i : Instr) (s : State) : Host.Outcome State Fault Refusal :=
  match i with
  | .srLoad b => Sys2Proof.Machine.execSrLoad b s
  | .srRaw => Sys2Proof.Machine.execSrRaw s
  | .srValid => Sys2Proof.Machine.execSrValid s
  | .srDr => Sys2Proof.Machine.execSrDr s
  | .srDs => Sys2Proof.Machine.execSrDs s
  | .srRt => Sys2Proof.Machine.execSrRt s
  | .srPipe => Sys2Proof.Machine.execSrPipe s
  | .srTxf => Sys2Proof.Machine.execSrTxf s
  | .srReport => Sys2Proof.Machine.execSrReport s
  | .frLoad b => Sys2Proof.Machine.execFrLoad b s
  | .frTxFull => Sys2Proof.Machine.execFrTxFull s
  | .frTxEmpty => Sys2Proof.Machine.execFrTxEmpty s
  | .frRxFull => Sys2Proof.Machine.execFrRxFull s
  | .frRxEmpty => Sys2Proof.Machine.execFrRxEmpty s
  | .imEmpty => Sys2Proof.Machine.execImEmpty s
  | .imAll => Sys2Proof.Machine.execImAll s
  | .imWithTf => Sys2Proof.Machine.execImWithTf s
  | .imWithTo => Sys2Proof.Machine.execImWithTo s
  | .imWithDr => Sys2Proof.Machine.execImWithDr s
  | .imContainsTf => Sys2Proof.Machine.execImContainsTf s
  | .imContainsTo => Sys2Proof.Machine.execImContainsTo s
  | .imContainsDr => Sys2Proof.Machine.execImContainsDr s
  | .imLoad b => Sys2Proof.Machine.execImLoad b s
  | .imRaw => Sys2Proof.Machine.execImRaw s

end Sys2Proof.Machine
end

