-- ==== Sys2Proof/Machine/Port.lean ====
section
/-!
DEFINITION. The ports (10_state.md R36): what the block takes from the input port next, and what the output port shows.
-/

namespace Sys2Proof.Machine

/-- What the next step takes from the input port. -/
inductive Fetched where
  /-- The host presents nothing more: the block waits (70_reset_and_hazards.md R110). -/
  | waiting
  /-- A sample with neither a reset nor an operation passes. -/
  | idle (rest : List PortIn)
  /-- Reset takes effect (70_reset_and_hazards.md R109). -/
  | reset (rest : List PortIn)
  /-- An operation word is accepted (60_exceptions.md R101). -/
  | word (w : Word) (rest : List PortIn)
  /-- The block is faulted and no reset comes (60_exceptions.md R98). -/
  | stuck
  deriving DecidableEq, Repr

/-- What follows the first sample that asserts `rst`, if any does. -/
def afterReset : List PortIn → Option (List PortIn)
  | [] => none
  | p :: rest => if p.rst then some rest else afterReset rest

/-- What the next step takes. A faulted block accepts nothing but reset, so samples before the next reset pass it by
(60_exceptions.md R98; DESIGN CHOICE, safe: notes/assumptions/3.md). Reset beats an operation presented in the same
sample (70_reset_and_hazards.md R111). -/
def fetch (s : State) : Fetched :=
  if s.fault then
    match afterReset s.inputs with
    | some rest => .reset rest
    | none => .stuck
  else
    match s.inputs with
    | [] => .waiting
    | p :: rest => if p.rst then .reset rest else if p.opValid then .word p.opWord rest else .idle rest

/-- The state with these samples left to come. -/
def State.withInputs (s : State) (rest : List PortIn) : State := { s with inputs := rest }

/-- The sample in which the host presents this word (10_state.md R36). -/
def presentWord (w : Word) : PortIn := { rst := false, opValid := true, opWord := w }

/-- The sample in which the host asserts `rst` and presents nothing. -/
def assertReset : PortIn := { rst := true, opValid := false, opWord := 0x0000#16 }

/-- The host presents these words, in this order, before what it presents already (10_state.md R20). -/
def State.present (s : State) (ws : List Word) : State := s.withInputs (ws.map presentWord ++ s.inputs)

/-- The output port's registers (10_state.md R35, R36): all the host can see of a state. -/
structure PortOut where
  /-- `result`. -/
  result : Word
  /-- `rkind`. -/
  rkind : BitVec 3
  /-- `fault`. -/
  fault : Bool
  /-- `fcause`. -/
  fcause : BitVec 2
  /-- `fop`. -/
  fop : Word
  deriving DecidableEq, Repr

/-- What the output port shows (10_state.md R36). -/
def portOut (s : State) : PortOut :=
  { result := s.result, rkind := s.rkind, fault := s.fault, fcause := s.fcause, fop := s.fop }

/-- `op_accept` for a sample: 1 when the presented operation is taken (10_state.md R36, 60_exceptions.md R98). While `rst` is
asserted nothing is accepted (70_reset_and_hazards.md R109; DEDUCED, safe: notes/assumptions/12.md). -/
def opAccept (s : State) (p : PortIn) : Bool := p.opValid && !p.rst && !s.fault

end Sys2Proof.Machine
end

