-- ==== Sys2Proof/Machine/Step.lean ====
section
/-!
DEFINITION. One step: take what the input port gives, decode it, run it (60_exceptions.md R101).
-/

namespace Sys2Proof.Machine

/-- Run one accepted word (60_exceptions.md R101). -/
def runWord (w : Word) (s : State) : Host.Outcome State Fault Refusal :=
  match decode w with
  | .ok i => exec i s
  | .error _ => illegalWord w s

/-- One step of the machine (60_exceptions.md R101). While the host presents nothing the block waits, unchanged
(DEDUCED, safe: notes/assumptions/2.md). -/
def step (s : State) : Host.Outcome State Fault Refusal :=
  match fetch s with
  | .waiting => .next s
  | .idle rest => .next (s.withInputs rest)
  | .reset rest => .next (s.withInputs rest).applyReset
  | .word w rest => runWord w (s.withInputs rest)
  | .stuck => .fault .stuck

/-- The state in which the host presents this word next (10_state.md R20, R36; notes/assumptions/8.md). -/
def State.withFetchWord (s : State) (_nbits w : Nat) : State := s.present [BitVec.ofNat 16 w]

end Sys2Proof.Machine
end

