-- ==== Sys2Proof/Machine/Program.lean ====
section
/-!
DEFINITION. Sequences of operations the host issues (10_state.md R20) and the pseudo-instructions that stand for such sequences
(30_encoding.md R62).
-/

namespace Sys2Proof.Machine

/-- The operations run one after another, each on the state the one before it left (20_memory.md R45), up to the first stop. -/
def runAll : List Instr → State → Out
  | [], s => .next s
  | i :: is, s =>
    match exec i s with
    | .next t => runAll is t
    | .fault r => .fault r
    | .refused r => .refused r

/-- IM_WITH_s, as a function of its source (30_encoding.md R53). -/
def imWith : Source → Instr
  | .txFailed => .imWithTf
  | .txOk => .imWithTo
  | .dataReady => .imWithDr

/-- IM_CONTAINS s, as a function of its source (42_interrupt_mask.md R87). -/
def imContains : Source → Instr
  | .txFailed => .imContainsTf
  | .txOk => .imContainsTo
  | .dataReady => .imContainsDr

/-- The pseudo-instructions (30_encoding.md R62). -/
inductive Pseudo where
  /-- IM_BUILD s1, ..., sk. -/
  | imBuild (sources : List Source)
  /-- IM_SANITIZE b. -/
  | imSanitize (b : Byte)
  /-- SR_DECODE b. -/
  | srDecode (b : Byte)
  /-- SR_ROUNDTRIP b. -/
  | srRoundtrip (b : Byte)
  deriving DecidableEq, Repr

/-- The real operations a pseudo-instruction stands for: it means nothing beyond them (30_encoding.md R62). -/
def expand : Pseudo → List Instr
  | .imBuild sources => .imEmpty :: sources.map imWith
  | .imSanitize b => [.imLoad b, .imRaw]
  | .srDecode b => [.srLoad b, .srReport]
  | .srRoundtrip b => [.srLoad b, .srRaw]

end Sys2Proof.Machine
end

