-- ==== Sys2Proof/Machine/Assembler.lean ====
section
/-!
DEFINITION. The assembler's syntax (30_encoding.md R61), pseudo-instructions among it (R62), on a line as a list of characters.
Spacing, letter case and leading zeros are the model's choice (DESIGN CHOICE, safe: notes/assumptions/11.md).
-/

namespace Sys2Proof.Machine

/-- What a line says: nothing, one operation, or a pseudo-instruction. -/
inductive AsmLine where
  /-- A blank line or a comment. -/
  | blank
  /-- A real operation. -/
  | op (i : Instr)
  /-- A pseudo-instruction. -/
  | pseudo (p : Pseudo)
  deriving DecidableEq, Repr

/-- A token, unless it is empty. -/
def flushToken (cur : List Char) : List (List Char) := if cur = [] then [] else [cur]

/-- The tokens of a line whose first one begins with `cur`. A comma is a token; `;` begins a comment (30_encoding.md R61). -/
def tokensFrom (cur : List Char) : List Char → List (List Char)
  | [] => flushToken cur
  | c :: cs =>
    if c = ';' then flushToken cur
    else if c = ',' then flushToken cur ++ [','] :: tokensFrom [] cs
    else if c = ' ' ∨ c = '\t' then flushToken cur ++ tokensFrom [] cs
    else tokensFrom (cur ++ [c]) cs

/-- The value of a digit below `base`, in either case. -/
def digitValue (base : Nat) (c : Char) : Option Nat :=
  let n := c.toNat
  let v :=
    if 48 ≤ n ∧ n ≤ 57 then n - 48
    else if 65 ≤ n ∧ n ≤ 70 then n - 55
    else if 97 ≤ n ∧ n ≤ 102 then n - 87
    else base
  if v < base then some v else none

/-- The number the digits write after `acc`, most significant first. -/
def numberFrom (base acc : Nat) : List Char → Option Nat
  | [] => some acc
  | c :: cs =>
    match digitValue base c with
    | some v => numberFrom base (acc * base + v) cs
    | none => none

/-- A byte operand: `0xNN`, `0bNNNN_NNNN` or decimal, in 0 to 255 (30_encoding.md R61). -/
def byteOperand (t : List Char) : Option Byte :=
  let n :=
    match t with
    | ['0', 'x', h, l] => numberFrom 16 0 [h, l]
    | ['0', 'b', a, b, c, d, '_', e, f, g, h] => numberFrom 2 0 [a, b, c, d, e, f, g, h]
    | [] => none
    | t => numberFrom 10 0 t
  match n with
  | some v => if v < 256 then some (BitVec.ofNat 8 v) else none
  | none => none

/-- A source operand: `TF`, `TO` or `DR` (30_encoding.md R61). -/
def sourceOperand (t : List Char) : Option Source :=
  if t = ['T', 'F'] then some .txFailed
  else if t = ['T', 'O'] then some .txOk
  else if t = ['D', 'R'] then some .dataReady
  else none

/-- Sources separated by commas, none at all included (30_encoding.md R62). -/
def sourceList : List (List Char) → Option (List Source)
  | [] => some []
  | [t] => (sourceOperand t).map fun s => [s]
  | t :: comma :: rest =>
    if comma = [','] ∧ rest ≠ [] then
      match sourceOperand t, sourceList rest with
      | some s, some ss => some (s :: ss)
      | _, _ => none
    else none

/-- The mnemonics with no operand (30_encoding.md R51 to R53). -/
def plainMnemonics : List (List Char × Instr) :=
  [("SR_RAW".toList, .srRaw), ("SR_VALID".toList, .srValid), ("SR_DR".toList, .srDr), ("SR_DS".toList, .srDs),
   ("SR_RT".toList, .srRt), ("SR_PIPE".toList, .srPipe), ("SR_TXF".toList, .srTxf), ("SR_REPORT".toList, .srReport)] ++
  [("FR_TXFULL".toList, .frTxFull), ("FR_TXEMPTY".toList, .frTxEmpty), ("FR_RXFULL".toList, .frRxFull),
   ("FR_RXEMPTY".toList, .frRxEmpty)] ++
  [("IM_EMPTY".toList, .imEmpty), ("IM_ALL".toList, .imAll), ("IM_WITH_TF".toList, .imWithTf),
   ("IM_WITH_TO".toList, .imWithTo), ("IM_WITH_DR".toList, .imWithDr), ("IM_RAW".toList, .imRaw)]

/-- The mnemonics with a byte operand, pseudo-instructions among them (30_encoding.md R61, R62). -/
def byteMnemonic (m : List Char) (b : Byte) : Option AsmLine :=
  if m = "SR_LOAD".toList then some (.op (.srLoad b))
  else if m = "FR_LOAD".toList then some (.op (.frLoad b))
  else if m = "IM_LOAD".toList then some (.op (.imLoad b))
  else if m = "IM_SANITIZE".toList then some (.pseudo (.imSanitize b))
  else if m = "SR_DECODE".toList then some (.pseudo (.srDecode b))
  else if m = "SR_ROUNDTRIP".toList then some (.pseudo (.srRoundtrip b))
  else none

/-- A line of tokens: a mnemonic, then an operand if the operation has one (30_encoding.md R61). -/
def parseTokens : List (List Char) → Option AsmLine
  | [] => some .blank
  | m :: args =>
    if m = "IM_BUILD".toList then (sourceList args).map fun ss => .pseudo (.imBuild ss)
    else
      match args with
      | [] => (plainMnemonics.lookup m).map .op
      | [a] =>
        if m = "IM_CONTAINS".toList then (sourceOperand a).map fun s => .op (imContains s)
        else
          match byteOperand a with
          | some b => byteMnemonic m b
          | none => none
      | _ => none

/-- A line of text (30_encoding.md R61). -/
def parseLine (text : List Char) : Option AsmLine := parseTokens (tokensFrom [] text)

/-- The words the assembler emits for a line (30_encoding.md R61, R62), or nothing where the line is no operation. -/
def assembleLine (text : List Char) : Option (List Word) :=
  match parseLine text with
  | some .blank => some []
  | some (.op i) => some [encode i]
  | some (.pseudo p) => some ((expand p).map encode)
  | none => none

/-- A hexadecimal digit. -/
def hexDigit (n : Nat) : Char := if n < 10 then Char.ofNat (48 + n) else Char.ofNat (55 + n)

/-- A byte as `0xNN` (30_encoding.md R61). -/
def byteText (b : Byte) : List Char := ['0', 'x', hexDigit (b.toNat / 16), hexDigit (b.toNat % 16)]

/-- An operation as the assembler writes it (30_encoding.md R61). -/
def asmText : Instr → List Char
  | .srLoad b => "SR_LOAD ".toList ++ byteText b
  | .srRaw => "SR_RAW".toList
  | .srValid => "SR_VALID".toList
  | .srDr => "SR_DR".toList
  | .srDs => "SR_DS".toList
  | .srRt => "SR_RT".toList
  | .srPipe => "SR_PIPE".toList
  | .srTxf => "SR_TXF".toList
  | .srReport => "SR_REPORT".toList
  | .frLoad b => "FR_LOAD ".toList ++ byteText b
  | .frTxFull => "FR_TXFULL".toList
  | .frTxEmpty => "FR_TXEMPTY".toList
  | .frRxFull => "FR_RXFULL".toList
  | .frRxEmpty => "FR_RXEMPTY".toList
  | .imEmpty => "IM_EMPTY".toList
  | .imAll => "IM_ALL".toList
  | .imWithTf => "IM_WITH_TF".toList
  | .imWithTo => "IM_WITH_TO".toList
  | .imWithDr => "IM_WITH_DR".toList
  | .imContainsTf => "IM_CONTAINS TF".toList
  | .imContainsTo => "IM_CONTAINS TO".toList
  | .imContainsDr => "IM_CONTAINS DR".toList
  | .imLoad b => "IM_LOAD ".toList ++ byteText b
  | .imRaw => "IM_RAW".toList

end Sys2Proof.Machine
end

