-- ==== Sys2Proof/Safety.lean ====
section
/-!
DEFINITION. The terms claims use: which holding register an operation reads (60_exceptions.md R93), when the pipe check applies
(R97), what every run keeps, when a run is over (R98), and when two states look alike from outside (10_state.md R33, R37).
-/

namespace Sys2Proof.Machine

/-- The three holding registers (10_state.md R15). -/
inductive Holding where
  /-- SR. -/
  | sr
  /-- FR. -/
  | fr
  /-- MR. -/
  | mr
  deriving DecidableEq, Repr

/-- The defined bit of a holding register (10_state.md R33). -/
def State.isDefined (s : State) : Holding → Bool
  | .sr => s.srDef
  | .fr => s.frDef
  | .mr => s.mrDef

/-- The holding register an operation reads, as 60_exceptions.md R93 lists the readers. -/
def readsHolding : Instr → Option Holding
  | .srRaw => some .sr
  | .srValid => some .sr
  | .srDr => some .sr
  | .srDs => some .sr
  | .srRt => some .sr
  | .srPipe => some .sr
  | .srTxf => some .sr
  | .srReport => some .sr
  | .frTxFull => some .fr
  | .frTxEmpty => some .fr
  | .frRxFull => some .fr
  | .frRxEmpty => some .fr
  | .imWithTf => some .mr
  | .imWithTo => some .mr
  | .imWithDr => some .mr
  | .imContainsTf => some .mr
  | .imContainsTo => some .mr
  | .imContainsDr => some .mr
  | .imRaw => some .mr
  | .srLoad _ => none
  | .frLoad _ => none
  | .imEmpty => none
  | .imAll => none
  | .imLoad _ => none

/-- The holding register an operation writes, as 10_state.md R15 lists the writers. -/
def writesHolding : Instr → Option Holding
  | .srLoad _ => some .sr
  | .frLoad _ => some .fr
  | .imEmpty => some .mr
  | .imAll => some .mr
  | .imWithTf => some .mr
  | .imWithTo => some .mr
  | .imWithDr => some .mr
  | .imLoad _ => some .mr
  | .srRaw => none
  | .srValid => none
  | .srDr => none
  | .srDs => none
  | .srRt => none
  | .srPipe => none
  | .srTxf => none
  | .srReport => none
  | .frTxFull => none
  | .frTxEmpty => none
  | .frRxFull => none
  | .frRxEmpty => none
  | .imContainsTf => none
  | .imContainsTo => none
  | .imContainsDr => none
  | .imRaw => none

/-- `reads_undefined(op, state)` (60_exceptions.md R97 check 3, R101). -/
def readsUndefined (i : Instr) (s : State) : Bool :=
  match readsHolding i with
  | some h => !s.isDefined h
  | none => false

/-- `pipe_check_applies(op, state)`: SR_PIPE always, SR_REPORT on a valid byte (60_exceptions.md R97 check 4, R101). -/
def pipeCheckApplies (i : Instr) (s : State) : Bool := i == .srPipe || (i == .srReport && !s.sr.getLsbD 7)

/-- PIPE holds the reserved encoding 6 (10_state.md R23). -/
def State.pipeReserved (s : State) : Bool := s.sr.extractLsb' 1 3 == 0b110#3

/-- The packing of RESULT that each RKIND promises (10_state.md R29; 00_scope.md R8; 40_status_register.md R71, R72). -/
def resultFits (rkind : BitVec 3) (result : Word) : Bool :=
  if rkind = 0b000#3 then result == 0x0000#16
  else if rkind = 0b001#3 then result.toNat < 256
  else if rkind = 0b010#3 then result.toNat < 2
  else if rkind = 0b011#3 then result == 0x0000#16 || (8 ≤ result.toNat && result.toNat ≤ 13)
  else if rkind = 0b100#3 then
    result == 0x0000#16 ||
      (result.toNat / 256 == 1 &&
        (if result.getLsbD 4 then (result.extractLsb' 1 3).toNat ≤ 5 else result.extractLsb' 1 3 == 0b000#3))
  else false

/-- What every run keeps. -/
structure State.Inv (s : State) : Prop where
  /-- Only bits 6, 5 and 4 of a defined MR can be 1 (10_state.md R19). -/
  mask : s.mrDef = true → s.mr &&& 0x8F#8 = 0x00#8
  /-- RKIND is a kind the table names, and RESULT has its packing (10_state.md R29). -/
  result : resultFits s.rkind s.result = true
  /-- With no fault taken, FCAUSE and FOP are as reset leaves them (10_state.md R32). -/
  quiet : s.fault = false → s.fcause = 0b00#2 ∧ s.fop = 0x0000#16
  /-- With a fault taken, FCAUSE and FOP describe it, and the registers still show why (10_state.md R32; 60_exceptions.md R91 to
  R93, R100). -/
  record : s.fault = true →
    (s.fcause = 0b01#2 ∧ s.srDef = true ∧ s.pipeReserved = true
      ∧ (s.fop = 0x1800#16 ∨ s.fop = 0x2000#16 ∧ s.sr.getLsbD 7 = false))
    ∨ (s.fcause = 0b10#2 ∧ ∃ e, decode s.fop = .error e)
    ∨ (s.fcause = 0b11#2 ∧ ∃ i, decode s.fop = .ok i ∧ readsUndefined i s = true)

/-- A run is over: the host presents nothing more, and no fault has been taken. A faulted state is never final
(60_exceptions.md R98). -/
def State.Final (s : State) : Prop := s.inputs = [] ∧ s.fault = false

/-- The registers whose reset value the spec gives have it (10_state.md R37). Nothing is said of SR, FR and MR, which R37 leaves
unspecified. -/
def State.LooksReset (s : State) : Prop :=
  s.srDef = false ∧ s.frDef = false ∧ s.mrDef = false ∧ s.result = 0x0000#16 ∧ s.rkind = 0b000#3 ∧
    s.fault = false ∧ s.fcause = 0b00#2 ∧ s.fop = 0x0000#16

/-- Two states that differ at most in a holding register whose defined bit is 0 (10_state.md R33, R37). -/
structure State.Alike (s t : State) : Prop where
  /-- The same SR_DEF. -/
  srDef : s.srDef = t.srDef
  /-- The same FR_DEF. -/
  frDef : s.frDef = t.frDef
  /-- The same MR_DEF. -/
  mrDef : s.mrDef = t.mrDef
  /-- The same SR where it is defined. -/
  sr : s.srDef = true → s.sr = t.sr
  /-- The same FR where it is defined. -/
  fr : s.frDef = true → s.fr = t.fr
  /-- The same MR where it is defined. -/
  mr : s.mrDef = true → s.mr = t.mr
  /-- The same on the output port (10_state.md R36). -/
  out : portOut s = portOut t
  /-- The host presents the same. -/
  inputs : s.inputs = t.inputs

/-- Two outcomes of alike runs: both stop for one reason, or both go on in alike states. -/
def outcomesAlike : Out → Out → Prop
  | .next s, .next t => s.Alike t
  | .fault a, .fault b => a = b
  | .refused a, .refused b => a = b
  | _, _ => False

/-- An operation `i`, encoded as `w`, that only reads the holding register `h`: where `h` is defined and no fault has been taken,
RESULT becomes `value` and RKIND becomes `kind` and nothing else changes; where `h` is undefined, it takes UndefinedRead
(60_exceptions.md R93, R95). -/
def QueryRule (i : Instr) (w : Word) (h : Holding) (kind : BitVec 3) (value : State → Word) : Prop :=
  decode w = .ok i ∧
  (∀ s : State, s.fault = false → s.isDefined h = true →
    exec i s = .next { s with result := value s, rkind := kind }) ∧
  (∀ s : State, s.fault = false → s.isDefined h = false →
    exec i s = .next { s with fault := true, fcause := 0b11#2, fop := w })

/-- An operation `i`, encoded as `w`, that sets the bits of `bits` in MR: where MR is defined and no fault has been taken, it does
so and leaves no result; where MR is undefined, it takes UndefinedRead (42_interrupt_mask.md R84 to R86). -/
def BuilderRule (i : Instr) (w : Word) (bits : Byte) : Prop :=
  decode w = .ok i ∧
  (∀ s : State, s.fault = false → s.mrDef = true →
    exec i s = .next { s with mr := s.mr ||| bits, result := 0x0000#16, rkind := 0b000#3 }) ∧
  (∀ s : State, s.fault = false → s.mrDef = false →
    exec i s = .next { s with fault := true, fcause := 0b11#2, fop := w })

/-- One row of the opcode map: its mask, its match, and the operation it stands for given IMM8 (30_encoding.md R63). -/
structure OpcodeRow where
  /-- The bits the row fixes. -/
  mask : Word
  /-- Their values. -/
  value : Word
  /-- The operation, from the word's IMM8. -/
  op : Byte → Instr

/-- The complete opcode map, row by row as 30_encoding.md R63 gives it. -/
def opcodeMap : List OpcodeRow :=
  [⟨0xFF00#16, 0x0000#16, .srLoad⟩, ⟨0xFFFF#16, 0x0400#16, fun _ => .srRaw⟩, ⟨0xFFFF#16, 0x0800#16, fun _ => .srValid⟩,
   ⟨0xFFFF#16, 0x0C00#16, fun _ => .srDr⟩, ⟨0xFFFF#16, 0x1000#16, fun _ => .srDs⟩, ⟨0xFFFF#16, 0x1400#16, fun _ => .srRt⟩,
   ⟨0xFFFF#16, 0x1800#16, fun _ => .srPipe⟩, ⟨0xFFFF#16, 0x1C00#16, fun _ => .srTxf⟩,
   ⟨0xFFFF#16, 0x2000#16, fun _ => .srReport⟩] ++
  [⟨0xFF00#16, 0x4000#16, .frLoad⟩, ⟨0xFFFF#16, 0x4400#16, fun _ => .frTxFull⟩,
   ⟨0xFFFF#16, 0x4800#16, fun _ => .frTxEmpty⟩, ⟨0xFFFF#16, 0x4C00#16, fun _ => .frRxFull⟩,
   ⟨0xFFFF#16, 0x5000#16, fun _ => .frRxEmpty⟩] ++
  [⟨0xFFFF#16, 0x8000#16, fun _ => .imEmpty⟩, ⟨0xFFFF#16, 0x8400#16, fun _ => .imAll⟩,
   ⟨0xFFFF#16, 0x8800#16, fun _ => .imWithTf⟩, ⟨0xFFFF#16, 0x8900#16, fun _ => .imWithTo⟩,
   ⟨0xFFFF#16, 0x8A00#16, fun _ => .imWithDr⟩, ⟨0xFFFF#16, 0x8C00#16, fun _ => .imContainsTf⟩,
   ⟨0xFFFF#16, 0x8D00#16, fun _ => .imContainsTo⟩, ⟨0xFFFF#16, 0x8E00#16, fun _ => .imContainsDr⟩,
   ⟨0xFF00#16, 0x9000#16, .imLoad⟩, ⟨0xFFFF#16, 0x9400#16, fun _ => .imRaw⟩]

/-- The 16-bit word of a truth value (10_state.md R29, kind BOOL). -/
def boolWord (f : Bool) : Word := if f then 0x0001#16 else 0x0000#16

end Sys2Proof.Machine
end

