-- ==== Sys2Proof/Certificates/Slice0/Obligations.lean ====
section
/-!
DEFINITION. The statements about the machine, from the numbered rules of spec/. The machine has no memory
(20_memory.md R38), so no frame speaks of one: a frame here is over every register and what the host presents.
-/

open Sys2Proof Sys2Proof.Machine

/-! ## Encoding -/

/-- 30_encoding.md R49 to R55, R63: decoding the word of an operation gives the operation back, for every operation and every
byte. -/
def Obligations.DecodeEncode : Prop := ∀ i : Instr, decode (encode i) = .ok i

/-- 30_encoding.md R58, R63; 10_state.md R32: a word that decodes to an operation is that operation's word, so the word FOP
records is the word presented. -/
def Obligations.EncodeDecode : Prop := ∀ (w : Word) (i : Instr), decode w = .ok i → encode i = w

/-- 30_encoding.md R57: a word is illegal iff one of the seven conditions holds; an illegal word raises IllegalOp and changes
nothing else; exactly 789 words are legal. -/
def Obligations.LegalWords : Prop :=
  (∀ w : Word, (∃ e, decode w = .error e) ↔
    (let unit := w.extractLsb' 14 2
     let fn := w.extractLsb' 10 4
     let src := w.extractLsb' 8 2
     let imm8 := w.extractLsb' 0 8
     let usesSrc := unit = 0b10#2 ∧ (fn = 0x2#4 ∨ fn = 0x3#4)
     let load := (unit = 0b00#2 ∧ fn = 0x0#4) ∨ (unit = 0b01#2 ∧ fn = 0x0#4) ∨ (unit = 0b10#2 ∧ fn = 0x4#4)
     unit = 0b11#2 ∨ (unit = 0b00#2 ∧ 9 ≤ fn.toNat) ∨ (unit = 0b01#2 ∧ 5 ≤ fn.toNat) ∨ (unit = 0b10#2 ∧ 6 ≤ fn.toNat) ∨
       (usesSrc ∧ src = 0b11#2) ∨ (¬ usesSrc ∧ src ≠ 0b00#2) ∨ (¬ load ∧ imm8 ≠ 0x00#8))) ∧
  (∀ (w : Word) (s : State) (rest : List PortIn), (∃ e, decode w = .error e) → s.fault = false →
    s.inputs = presentWord w :: rest →
    step s = .next { s with fault := true, fcause := 0b10#2, fop := w, inputs := rest }) ∧
  (∃ legal : List Word, legal.Nodup ∧ legal.length = 789 ∧ ∀ w, w ∈ legal ↔ ∃ i, decode w = .ok i)

/-- 30_encoding.md R63: a word that matches a row of the opcode map decodes to that row's operation, no word matches two rows, and
a word that matches none is illegal. -/
def Obligations.OpcodeMap : Prop :=
  (∀ r ∈ opcodeMap, ∀ w : Word, w &&& r.mask = r.value → decode w = .ok (r.op (w.extractLsb' 0 8))) ∧
  opcodeMap.Pairwise (fun r q => ∀ w : Word, ¬ (w &&& r.mask = r.value ∧ w &&& q.mask = q.value)) ∧
  (∀ w : Word, (∀ r ∈ opcodeMap, w &&& r.mask ≠ r.value) → ∃ e, decode w = .error e)

/-- 30_encoding.md R63: a word of each unit, written out bit by bit, and a reserved SRC, decode as the table says. -/
def Obligations.SampleWords : Prop :=
  decode 0b0000000001001011#16 = .ok (.srLoad 0x4B#8) ∧ decode 0b0010000000000000#16 = .ok .srReport ∧
  decode 0b0100110000000000#16 = .ok .frRxFull ∧ decode 0b1000110100000000#16 = .ok .imContainsTo ∧
  decode 0b1000111100000000#16 = .error .srcReserved

/-- 30_encoding.md R61: the assembler emits an operation's own word for its text, for every operation and every byte. -/
def Obligations.AssemblerText : Prop := ∀ i : Instr, assembleLine (asmText i) = some [encode i]

/-! ## The step and the port -/

/-- 10_state.md R20, 60_exceptions.md R101: the step of a block that is not faulted, with a word presented that decodes to an
operation, is that operation's meaning, on the state whose first sample has been taken. -/
def Obligations.StepRunsDecoded : Prop :=
  ∀ (s : State) (p : PortIn) (rest : List PortIn) (i : Instr), s.fault = false → s.inputs = p :: rest → p.rst = false →
    p.opValid = true → decode p.opWord = .ok i → step s = exec i { s with inputs := rest }

/-- 60_exceptions.md R97 (with R91 to R93 and the step relation R101): the checks of a presented word, in their order. A faulted
block runs no word; an illegal word takes IllegalOp; a read of an undefined holding register takes UndefinedRead; a reserved pipe
field takes ReservedPipe; otherwise the operation completes with no fault. -/
def Obligations.CheckOrder : Prop :=
  ∀ (s : State) (w : Word) (rest : List PortIn), s.inputs = presentWord w :: rest →
    (s.fault = true → opAccept s (presentWord w) = false ∧ runWord w { s with inputs := rest } = .fault .stuck) ∧
    (s.fault = false →
      (∀ e, decode w = .error e →
        step s = .next { s with fault := true, fcause := 0b10#2, fop := w, inputs := rest }) ∧
      (∀ i, decode w = .ok i → readsUndefined i s = true →
        step s = .next { s with fault := true, fcause := 0b11#2, fop := w, inputs := rest }) ∧
      (∀ i, decode w = .ok i → readsUndefined i s = false → pipeCheckApplies i s = true → s.pipeReserved = true →
        step s = .next { s with fault := true, fcause := 0b01#2, fop := w, inputs := rest }) ∧
      (∀ i, decode w = .ok i → readsUndefined i s = false → ¬ (pipeCheckApplies i s = true ∧ s.pipeReserved = true) →
        ∃ t, step s = .next t ∧ exec i { s with inputs := rest } = .next t ∧ t.fault = false))

/-- 70_reset_and_hazards.md R109, R111, with two deductions of the model: with `rst` asserted, whatever is presented with it and
faulted or not, reset takes effect and no operation is executed, in one step that takes just that sample (that one sample is one whole
reset is the model's, notes/assumptions/9.md); op_accept is 0 (the model's, notes/assumptions/12.md: 10_state.md R36 alone gives it iff
FAULT is 0); and nothing else leaves a fault. -/
def Obligations.ResetStep : Prop :=
  (∀ (s : State) (p : PortIn) (rest : List PortIn), s.inputs = p :: rest → p.rst = true →
    ∃ t, step s = .next t ∧ t.LooksReset ∧ t.inputs = rest) ∧
  (∀ (s : State) (p : PortIn), p.rst = true → opAccept s p = false) ∧
  (∀ s t : State, s.fault = true → step s = .next t → ∃ p ∈ s.inputs, p.rst = true ∧ t.LooksReset)

/-- 60_exceptions.md R98 with the model's choice of notes/assumptions/3.md: the samples before the next reset pass a faulted block by,
and its next step is that reset. -/
def Obligations.ResetReached : Prop :=
  ∀ (s : State) (before : List PortIn) (p : PortIn) (rest : List PortIn), s.fault = true →
    s.inputs = before ++ p :: rest → (∀ q ∈ before, q.rst = false) → p.rst = true →
    ∃ t, step s = .next t ∧ t.LooksReset ∧ t.inputs = rest

/-- 10_state.md R37: the reset state's registers have the values the spec gives, and every operation that reads a holding register
faults there, so what SR, FR and MR hold cannot be observed. -/
def Obligations.ResetValues : Prop :=
  State.reset.LooksReset ∧
  ∀ i : Instr, readsHolding i ≠ none →
    exec i State.reset = .next { State.reset with fault := true, fcause := 0b11#2, fop := encode i }

/-- 60_exceptions.md R101, 70_reset_and_hazards.md R110 (the model's choice, notes/assumptions/2.md): where no fault has been
taken, the block waits while nothing is presented, and a sample with neither a reset nor an operation changes no register. -/
def Obligations.Waits : Prop :=
  (∀ s : State, s.fault = false → s.inputs = [] → step s = .next s) ∧
  (∀ (s : State) (p : PortIn) (rest : List PortIn), s.fault = false → s.inputs = p :: rest → p.rst = false →
    p.opValid = false → step s = .next { s with inputs := rest })

/-- 10_state.md R36, 60_exceptions.md R98: for a presented word that no reset overrides, `op_accept` is 1 iff FAULT is 0, and then,
and only then, the next step takes that word. -/
def Obligations.OpAcceptRule : Prop :=
  ∀ (s : State) (p : PortIn) (rest : List PortIn), s.inputs = p :: rest → p.opValid = true → p.rst = false →
    (opAccept s p = true ↔ s.fault = false) ∧ (opAccept s p = true ↔ fetch s = .word p.opWord rest)

/-- 10_state.md R20, 20_memory.md R45: presenting a sequence of words runs their operations one per step, in that order, each on
the state the one before it left, up to the first stop. -/
def Obligations.RunPresents : Prop :=
  ∀ (ops : List Instr) (s : State),
    Host.Core.run core ops.length (({ s with inputs := [] } : State).present (ops.map encode)) =
      runAll ops { s with inputs := [] }

/-! ## Faults -/

/-- 60_exceptions.md R95, R96: a step that takes a fault writes FAULT, FCAUSE and FOP and nothing else, and FOP is the word it took
from the port. -/
def Obligations.FaultEntry : Prop :=
  ∀ s t : State, step s = .next t → s.fault = false → t.fault = true →
    ∃ (p : PortIn) (rest : List PortIn) (c : BitVec 2), s.inputs = p :: rest ∧ c ≠ 0b00#2 ∧
      t = { s with fault := true, fcause := c, fop := p.opWord, inputs := rest }

/-- 60_exceptions.md R98: a faulted block has no step for any operation or word, accepts nothing, is stuck unless a reset is
presented, which alone leaves that state, and is never final; and being faulted is the only way a word can be refused. -/
def Obligations.FaultedStuck : Prop :=
  (∀ (i : Instr) (s : State), s.fault = true → exec i s = .fault .stuck) ∧
  (∀ (w : Word) (s : State), s.fault = true → runWord w s = .fault .stuck) ∧
  (∀ s : State, s.fault = true → (∀ p ∈ s.inputs, p.rst = false) → step s = .fault .stuck) ∧
  (∀ (s : State) (p : PortIn), s.fault = true → opAccept s p = false) ∧
  (∀ s t : State, s.fault = true → step s = .next t → ∃ p ∈ s.inputs, p.rst = true ∧ t.LooksReset) ∧
  (∀ s : State, s.fault = true → ¬ s.Final) ∧
  (∀ (s : State) (r : Fault), step s = .fault r → s.fault = true) ∧
  (∀ (s : State) (r : Refusal), step s ≠ .refused r)

/-! ## Invariants -/

/-- The invariant holds after reset (10_state.md R19, R29, R32, R37). -/
def Obligations.InvReset : Prop := State.reset.Inv

/-- Every step keeps the invariant: the mask within its three bits (10_state.md R19), RESULT packed as RKIND says (R29,
00_scope.md R8), FCAUSE and FOP the true record of the first fault (10_state.md R32, 60_exceptions.md R100). -/
def Obligations.InvStep : Prop := ∀ s t : State, s.Inv → step s = .next t → t.Inv

/-- 10_state.md R19: whenever MR_DEF is 1, only bits 6, 5 and 4 of MR can be 1: it holds after reset and every step keeps it. -/
def Obligations.MaskInvariant : Prop :=
  (State.reset.mrDef = true → State.reset.mr &&& 0b1000_1111#8 = 0x00#8) ∧
  ∀ s t : State, (s.mrDef = true → s.mr &&& 0b1000_1111#8 = 0x00#8) → step s = .next t →
    t.mrDef = true → t.mr &&& 0b1000_1111#8 = 0x00#8

/-- 10_state.md R33, R37: what an undefined holding register holds cannot be observed. From two states that differ at most there, a
step stops for the same reason or goes on to two states that again differ at most there. So the value the model names at reset
(notes/assumptions/4.md) shows nowhere. -/
def Obligations.UndefinedHidden : Prop := ∀ s t : State, s.Alike t → outcomesAlike (step s) (step t)

/-! ## Frames over all operations -/

/-- 10_state.md R15 to R18, R33, 70_reset_and_hazards.md R118: an operation that goes on changes SR, FR and MR and their defined
bits only as their writers do; it clears no defined bit; a writer that takes no fault defines its register and leaves no result; and
no operation touches what the host presents. -/
def Obligations.HoldingFrame : Prop :=
  ∀ (i : Instr) (s t : State), exec i s = .next t →
    (writesHolding i ≠ some .sr → t.sr = s.sr ∧ t.srDef = s.srDef) ∧
    (writesHolding i ≠ some .fr → t.fr = s.fr ∧ t.frDef = s.frDef) ∧
    (writesHolding i ≠ some .mr → t.mr = s.mr ∧ t.mrDef = s.mrDef) ∧
    (∀ h, s.isDefined h = true → t.isDefined h = true) ∧
    (∀ h, writesHolding i = some h → t.fault = false →
      t.isDefined h = true ∧ t.result = 0x0000#16 ∧ t.rkind = 0b000#3) ∧
    (t.fault = false → t.fcause = s.fcause ∧ t.fop = s.fop) ∧
    t.inputs = s.inputs

/-- 20_memory.md R43: a query is idempotent: one that took no fault, repeated, changes nothing at all; and SR_PIPE on a reserved pipe
field faults from every state that is not faulted. -/
def Obligations.QueriesRepeat : Prop :=
  (∀ (i : Instr) (s t : State), writesHolding i = none → exec i s = .next t → t.fault = false → exec i t = .next t) ∧
  (∀ s : State, s.fault = false → s.srDef = true → s.pipeReserved = true →
    exec .srPipe s = .next { s with fault := true, fcause := 0b01#2, fop := 0x1800#16 })

/-- 00_scope.md R2, 10_state.md R21: no unit reads another unit's state. An operation that neither reads nor writes a holding register
does the same whatever that register and its defined bit hold, and leaves them alone. -/
def Obligations.UnitsApart : Prop :=
  ∀ (i : Instr) (s t : State) (b : Byte) (d : Bool), exec i s = .next t →
    (readsHolding i ≠ some .sr → writesHolding i ≠ some .sr →
      exec i { s with sr := b, srDef := d } = .next { t with sr := b, srDef := d }) ∧
    (readsHolding i ≠ some .fr → writesHolding i ≠ some .fr →
      exec i { s with fr := b, frDef := d } = .next { t with fr := b, frDef := d }) ∧
    (readsHolding i ≠ some .mr → writesHolding i ≠ some .mr →
      exec i { s with mr := b, mrDef := d } = .next { t with mr := b, mrDef := d })

/-! ## Unit SR -/

/-- 40_status_register.md R64. -/
def Obligations.SrLoadRule : Prop :=
  ∀ b : Byte, decode (0x0000#16 ||| b.setWidth 16) = .ok (.srLoad b) ∧
    ∀ s : State, s.fault = false →
      exec (.srLoad b) s = .next { s with sr := b, srDef := true, result := 0x0000#16, rkind := 0b000#3 }

/-- 40_status_register.md R65: the byte of SR; and SR_LOAD b followed by SR_RAW gives every byte b back (30_encoding.md R62,
SR_ROUNDTRIP). -/
def Obligations.SrRawRule : Prop :=
  QueryRule .srRaw 0x0400#16 .sr 0b001#3 (fun s => s.sr.setWidth 16) ∧
  ∀ (b : Byte) (s : State), s.fault = false → runAll (expand (.srRoundtrip b)) s = .next
    { s with sr := b, srDef := true, result := b.setWidth 16, rkind := 0b001#3 }

/-- 40_status_register.md R66: 1 for every byte up to 0x7F, 0 for every byte from 0x80. -/
def Obligations.SrValidRule : Prop :=
  QueryRule .srValid 0x0800#16 .sr 0b010#3 fun s => boolWord (s.sr.toNat < 128)

/-- 40_status_register.md R67, R68, R69, R73: bits 6, 5, 4 and 0, whatever the others hold. -/
def Obligations.SrBitQueries : Prop :=
  QueryRule .srDr 0x0C00#16 .sr 0b010#3 (fun s => boolWord (s.sr.getLsbD 6)) ∧
  QueryRule .srDs 0x1000#16 .sr 0b010#3 (fun s => boolWord (s.sr.getLsbD 5)) ∧
  QueryRule .srRt 0x1400#16 .sr 0b010#3 (fun s => boolWord (s.sr.getLsbD 4)) ∧
  QueryRule .srTxf 0x1C00#16 .sr 0b010#3 (fun s => boolWord (s.sr.getLsbD 0))

/-- 40_status_register.md R70, R71: 0 to 5 an index beside the present bit, 7 no pipe, 6 the fault and no value, whatever bit 7
holds. -/
def Obligations.SrPipeRule : Prop :=
  decode 0x1800#16 = .ok .srPipe ∧
  ∀ s : State, s.fault = false →
    (s.srDef = false → exec .srPipe s = .next { s with fault := true, fcause := 0b11#2, fop := 0x1800#16 }) ∧
    (s.srDef = true →
      (∀ f : BitVec 3, s.sr.extractLsb' 1 3 = f →
        (f.toNat ≤ 5 → exec .srPipe s = .next { s with result := 0x0008#16 + f.setWidth 16, rkind := 0b011#3 }) ∧
        (f = 0b111#3 → exec .srPipe s = .next { s with result := 0x0000#16, rkind := 0b011#3 }) ∧
        (f = 0b110#3 →
          exec .srPipe s = .next { s with fault := true, fcause := 0b01#2, fop := 0x1800#16 })))

/-- 40_status_register.md R72: an invalid byte gives 0 and never faults; a valid one gives VALID, the three event bits, the pipe and
the queue bit, in that order; a valid one with the reserved pipe field faults. -/
def Obligations.SrReportRule : Prop :=
  decode 0x2000#16 = .ok .srReport ∧
  ∀ s : State, s.fault = false →
    (s.srDef = false → exec .srReport s = .next { s with fault := true, fcause := 0b11#2, fop := 0x2000#16 }) ∧
    (s.srDef = true →
      ∀ b, s.sr = b →
        (128 ≤ b.toNat → exec .srReport s = .next { s with result := 0x0000#16, rkind := 0b100#3 }) ∧
        (b.toNat < 128 → b.toNat / 2 % 8 ≤ 5 → exec .srReport s = .next { s with
          result := BitVec.ofNat 16 (256 + b.toNat / 16 * 32 + (16 + b.toNat / 2 % 8 * 2) + b.toNat % 2)
          rkind := 0b100#3 }) ∧
        (b.toNat < 128 → b.toNat / 2 % 8 = 7 → exec .srReport s = .next { s with
          result := BitVec.ofNat 16 (256 + b.toNat / 16 * 32 + b.toNat % 2), rkind := 0b100#3 }) ∧
        (b.toNat < 128 → b.toNat / 2 % 8 = 6 →
          exec .srReport s = .next { s with fault := true, fcause := 0b01#2, fop := 0x2000#16 }))

/-- 40_status_register.md R75: for a valid byte whose pipe field is not 6, the report and the single queries all complete and
agree. -/
def Obligations.SrAgree : Prop :=
  ∀ s : State, s.fault = false → s.srDef = true → s.sr.getLsbD 7 = false → s.pipeReserved = false →
    ∃ r dr ds rt tx pp raw : State,
      exec .srReport s = .next r ∧ exec .srDr s = .next dr ∧ exec .srDs s = .next ds ∧ exec .srRt s = .next rt ∧
      exec .srTxf s = .next tx ∧ exec .srPipe s = .next pp ∧ exec .srRaw s = .next raw ∧
      dr.result = boolWord (r.result.getLsbD 7) ∧ ds.result = boolWord (r.result.getLsbD 6) ∧
      rt.result = boolWord (r.result.getLsbD 5) ∧ tx.result = boolWord (r.result.getLsbD 0) ∧
      pp.result.extractLsb' 0 4 = r.result.extractLsb' 1 4 ∧ raw.result = s.sr.setWidth 16

/-- 40_status_register.md R74: the five accessors do the same whatever bit 7 of the status byte holds. -/
def Obligations.ValidityNotRead : Prop :=
  ∀ i ∈ [Instr.srDr, .srDs, .srRt, .srTxf, .srPipe], ∀ s t : State, exec i s = .next t →
    exec i { s with sr := s.sr ^^^ 0x80#8 } = .next { t with sr := s.sr ^^^ 0x80#8 }

/-! ## Unit FR -/

/-- 41_fifo_status.md R76. -/
def Obligations.FrLoadRule : Prop :=
  ∀ b : Byte, decode (0x4000#16 ||| b.setWidth 16) = .ok (.frLoad b) ∧
    ∀ s : State, s.fault = false →
      exec (.frLoad b) s = .next { s with fr := b, frDef := true, result := 0x0000#16, rkind := 0b000#3 }

/-- 41_fifo_status.md R77 to R80: bits 5, 4, 1 and 0, each whatever the others hold. -/
def Obligations.FrQueries : Prop :=
  QueryRule .frTxFull 0x4400#16 .fr 0b010#3 (fun s => boolWord (s.fr.getLsbD 5)) ∧
  QueryRule .frTxEmpty 0x4800#16 .fr 0b010#3 (fun s => boolWord (s.fr.getLsbD 4)) ∧
  QueryRule .frRxFull 0x4C00#16 .fr 0b010#3 (fun s => boolWord (s.fr.getLsbD 1)) ∧
  QueryRule .frRxEmpty 0x5000#16 .fr 0b010#3 (fun s => boolWord (s.fr.getLsbD 0))

/-! ## Unit IM -/

/-- 42_interrupt_mask.md R82, R83: a mask is started, whether or not MR was defined. -/
def Obligations.ImStart : Prop :=
  decode 0x8000#16 = .ok .imEmpty ∧ decode 0x8400#16 = .ok .imAll ∧
  ∀ s : State, s.fault = false →
    exec .imEmpty s = .next { s with mr := 0x00#8, mrDef := true, result := 0x0000#16, rkind := 0b000#3 } ∧
    exec .imAll s = .next { s with mr := 0x70#8, mrDef := true, result := 0x0000#16, rkind := 0b000#3 }

/-- 42_interrupt_mask.md R84, R85, R86. -/
def Obligations.ImWithRule : Prop :=
  BuilderRule .imWithTf 0x8800#16 0x10#8 ∧ BuilderRule .imWithTo 0x8900#16 0x20#8 ∧
  BuilderRule .imWithDr 0x8A00#16 0x40#8

/-- 42_interrupt_mask.md R87: TF is bit 4, TO bit 5, DR bit 6; and after IM_LOAD of a byte the answer is that byte's bit. -/
def Obligations.ImContainsRule : Prop :=
  QueryRule .imContainsTf 0x8C00#16 .mr 0b010#3 (fun s => boolWord (s.mr.getLsbD 4)) ∧
  QueryRule .imContainsTo 0x8D00#16 .mr 0b010#3 (fun s => boolWord (s.mr.getLsbD 5)) ∧
  QueryRule .imContainsDr 0x8E00#16 .mr 0b010#3 (fun s => boolWord (s.mr.getLsbD 6)) ∧
  decode 0x8F00#16 = .error .srcReserved ∧
  ∀ (b : Byte) (s : State), s.fault = false → ∀ q ∈ [(Instr.imContainsTf, 4), (.imContainsTo, 5), (.imContainsDr, 6)],
    ∃ t, runAll [.imLoad b, q.1] s = .next t ∧ t.result = boolWord (b.getLsbD q.2) ∧ t.rkind = 0b010#3

/-- 42_interrupt_mask.md R88: bits outside 6, 5 and 4 are dropped, without an error. -/
def Obligations.ImLoadRule : Prop :=
  ∀ b : Byte, decode (0x9000#16 ||| b.setWidth 16) = .ok (.imLoad b) ∧
    ∀ s : State, s.fault = false →
      exec (.imLoad b) s = .next { s with mr := b &&& 0x70#8, mrDef := true, result := 0x0000#16, rkind := 0b000#3 }

/-- 42_interrupt_mask.md R89: the byte of MR, whose bits 7 and 3:0 are 0 where MR keeps its invariant (10_state.md R19). -/
def Obligations.ImRawRule : Prop :=
  QueryRule .imRaw 0x9400#16 .mr 0b001#3 (fun s => s.mr.setWidth 16) ∧
  ∀ s : State, s.fault = false → s.mrDef = true → s.mr &&& 0x8F#8 = 0x00#8 →
    ∃ t, exec .imRaw s = .next t ∧ t.result &&& 0xFF8F#16 = 0x0000#16

/-- 42_interrupt_mask.md R90, items 1 and 2: the builders commute and are idempotent. -/
def Obligations.MaskLaws : Prop :=
  ∀ s : State, s.fault = false → s.mrDef = true → ∀ a b : Source,
    (∃ t, runAll [imWith a, imWith b] s = .next t ∧ runAll [imWith b, imWith a] s = .next t) ∧
    (∃ t, runAll [imWith a, imWith a] s = .next t ∧ exec (imWith a) s = .next t)

/-- 42_interrupt_mask.md R90, items 3 and 4, and 30_encoding.md R62: IM_BUILD leaves the OR of its sources' bits in MR and changes
nothing else but the result; IM_CONTAINS then answers whether a source is among them; and all three give the mask of IM_ALL. -/
def Obligations.ImBuild : Prop :=
  ∀ (ss : List Source) (s : State), s.fault = false →
    ∃ t, runAll (expand (.imBuild ss)) s = .next t ∧
      t = { s with mr := ss.foldr (fun x m => sourceMask x ||| m) 0x00#8, mrDef := true
                   result := 0x0000#16, rkind := 0b000#3 } ∧
      (∀ x, exec (imContains x) t = .next { t with result := boolWord (x ∈ ss), rkind := 0b010#3 }) ∧
      ((∀ x, x ∈ ss) → exec .imAll s = .next t)

/-- 42_interrupt_mask.md R90, item 5, and 30_encoding.md R62: IM_SANITIZE gives the byte with its stray bits dropped, and a byte with
none unchanged. -/
def Obligations.ImSanitize : Prop :=
  ∀ (b : Byte) (s : State), s.fault = false →
    runAll (expand (.imSanitize b)) s = .next
      { s with mr := b &&& 0x70#8, mrDef := true, result := (b &&& 0x70#8).setWidth 16, rkind := 0b001#3 } ∧
    (b &&& 0x8F#8 = 0x00#8 → ∃ t, runAll (expand (.imSanitize b)) s = .next t ∧ t.result = b.setWidth 16)
end

