-- ==== Sys2Proof/Laws/Encoding.lean ====
section
/-!
SUPPORT. The fields of a word and the word of its fields give each other back (30_encoding.md R49).
-/

namespace Sys2Proof

/-- Which field each bit of a word lies in. -/
theorem wordOf_getLsbD (f : OpFields) (j : Nat) :
    (wordOf f).getLsbD j =
      if j < 8 then f.imm8.getLsbD j
      else if j < 10 then f.src.getLsbD (j - 8)
      else if j < 14 then f.fn.getLsbD (j - 10)
      else f.unit.getLsbD (j - 14) := by
  have e : (wordOf f).getLsbD j = ((f.unit ++ f.fn ++ f.src) ++ f.imm8).getLsbD j := rfl
  rw [e]
  simp only [BitVec.getLsbD_append, Nat.sub_sub]
  grind

theorem fieldsOf_wordOf (f : OpFields) : fieldsOf (wordOf f) = f := by
  obtain ⟨u, n, s, b⟩ := f
  simp only [fieldsOf, OpFields.mk.injEq]
  refine ⟨?_, ?_, ?_, ?_⟩ <;>
  · apply BitVec.eq_of_getLsbD_eq
    intro j hj
    simp only [BitVec.getLsbD_extractLsb', wordOf_getLsbD]
    grind

theorem wordOf_fieldsOf (w : Word) : wordOf (fieldsOf w) = w := by
  apply BitVec.eq_of_getLsbD_eq
  intro j hj
  simp only [wordOf_getLsbD, fieldsOf, BitVec.getLsbD_extractLsb']
  grind

/-- A word is determined by its fields. -/
theorem fieldsOf_injective {v w : Word} (h : fieldsOf v = fieldsOf w) : v = w := by
  rw [← wordOf_fieldsOf v, h, wordOf_fieldsOf]

end Sys2Proof
end

