-- ==== Sys2Proof/Laws/State.lean ====
section
/-!
SUPPORT. What each update of State does to each field, so that no later proof unfolds a record update.
-/

namespace Sys2Proof.Machine

section
variable (s : State)

/-! The five result primitives are one write of RESULT and RKIND. -/

@[simp] theorem State.resultNone_eq : s.resultNone = s.setResult 0x0000#16 .none := rfl
@[simp] theorem State.resultByte_eq (b : Byte) : s.resultByte b = s.setResult (b.setWidth 16) .byte := rfl
@[simp] theorem State.resultBool_eq (f : Bool) : s.resultBool f = s.setResult ((BitVec.ofBool f).setWidth 16) .bool := rfl
@[simp] theorem State.resultPipe_eq (p : Option DataPipeIndex) :
    s.resultPipe p = s.setResult ((pipeBits p).setWidth 16) .pipe := rfl
@[simp] theorem State.resultReport_eq (r : Option StatusReport) :
    s.resultReport r = s.setResult ((reportBits r).setWidth 16) .report := rfl

/-! setResult -/

@[simp] theorem State.setResult_sr (v : Word) (k : Kind) : (s.setResult v k).sr = s.sr := rfl
@[simp] theorem State.setResult_fr (v : Word) (k : Kind) : (s.setResult v k).fr = s.fr := rfl
@[simp] theorem State.setResult_mr (v : Word) (k : Kind) : (s.setResult v k).mr = s.mr := rfl
@[simp] theorem State.setResult_srDef (v : Word) (k : Kind) : (s.setResult v k).srDef = s.srDef := rfl
@[simp] theorem State.setResult_frDef (v : Word) (k : Kind) : (s.setResult v k).frDef = s.frDef := rfl
@[simp] theorem State.setResult_mrDef (v : Word) (k : Kind) : (s.setResult v k).mrDef = s.mrDef := rfl
@[simp] theorem State.setResult_result (v : Word) (k : Kind) : (s.setResult v k).result = v := rfl
@[simp] theorem State.setResult_rkind (v : Word) (k : Kind) : (s.setResult v k).rkind = kindCode k := rfl
@[simp] theorem State.setResult_fault (v : Word) (k : Kind) : (s.setResult v k).fault = s.fault := rfl
@[simp] theorem State.setResult_fcause (v : Word) (k : Kind) : (s.setResult v k).fcause = s.fcause := rfl
@[simp] theorem State.setResult_fop (v : Word) (k : Kind) : (s.setResult v k).fop = s.fop := rfl
@[simp] theorem State.setResult_inputs (v : Word) (k : Kind) : (s.setResult v k).inputs = s.inputs := rfl

/-! writeSr -/

@[simp] theorem State.writeSr_sr (b : Byte) : (s.writeSr b).sr = b := rfl
@[simp] theorem State.writeSr_fr (b : Byte) : (s.writeSr b).fr = s.fr := rfl
@[simp] theorem State.writeSr_mr (b : Byte) : (s.writeSr b).mr = s.mr := rfl
@[simp] theorem State.writeSr_srDef (b : Byte) : (s.writeSr b).srDef = true := rfl
@[simp] theorem State.writeSr_frDef (b : Byte) : (s.writeSr b).frDef = s.frDef := rfl
@[simp] theorem State.writeSr_mrDef (b : Byte) : (s.writeSr b).mrDef = s.mrDef := rfl
@[simp] theorem State.writeSr_result (b : Byte) : (s.writeSr b).result = s.result := rfl
@[simp] theorem State.writeSr_rkind (b : Byte) : (s.writeSr b).rkind = s.rkind := rfl
@[simp] theorem State.writeSr_fault (b : Byte) : (s.writeSr b).fault = s.fault := rfl
@[simp] theorem State.writeSr_fcause (b : Byte) : (s.writeSr b).fcause = s.fcause := rfl
@[simp] theorem State.writeSr_fop (b : Byte) : (s.writeSr b).fop = s.fop := rfl
@[simp] theorem State.writeSr_inputs (b : Byte) : (s.writeSr b).inputs = s.inputs := rfl

/-! writeFr -/

@[simp] theorem State.writeFr_sr (b : Byte) : (s.writeFr b).sr = s.sr := rfl
@[simp] theorem State.writeFr_fr (b : Byte) : (s.writeFr b).fr = b := rfl
@[simp] theorem State.writeFr_mr (b : Byte) : (s.writeFr b).mr = s.mr := rfl
@[simp] theorem State.writeFr_srDef (b : Byte) : (s.writeFr b).srDef = s.srDef := rfl
@[simp] theorem State.writeFr_frDef (b : Byte) : (s.writeFr b).frDef = true := rfl
@[simp] theorem State.writeFr_mrDef (b : Byte) : (s.writeFr b).mrDef = s.mrDef := rfl
@[simp] theorem State.writeFr_result (b : Byte) : (s.writeFr b).result = s.result := rfl
@[simp] theorem State.writeFr_rkind (b : Byte) : (s.writeFr b).rkind = s.rkind := rfl
@[simp] theorem State.writeFr_fault (b : Byte) : (s.writeFr b).fault = s.fault := rfl
@[simp] theorem State.writeFr_fcause (b : Byte) : (s.writeFr b).fcause = s.fcause := rfl
@[simp] theorem State.writeFr_fop (b : Byte) : (s.writeFr b).fop = s.fop := rfl
@[simp] theorem State.writeFr_inputs (b : Byte) : (s.writeFr b).inputs = s.inputs := rfl

/-! writeMr -/

@[simp] theorem State.writeMr_sr (b : Byte) : (s.writeMr b).sr = s.sr := rfl
@[simp] theorem State.writeMr_fr (b : Byte) : (s.writeMr b).fr = s.fr := rfl
@[simp] theorem State.writeMr_mr (b : Byte) : (s.writeMr b).mr = b := rfl
@[simp] theorem State.writeMr_srDef (b : Byte) : (s.writeMr b).srDef = s.srDef := rfl
@[simp] theorem State.writeMr_frDef (b : Byte) : (s.writeMr b).frDef = s.frDef := rfl
@[simp] theorem State.writeMr_mrDef (b : Byte) : (s.writeMr b).mrDef = true := rfl
@[simp] theorem State.writeMr_result (b : Byte) : (s.writeMr b).result = s.result := rfl
@[simp] theorem State.writeMr_rkind (b : Byte) : (s.writeMr b).rkind = s.rkind := rfl
@[simp] theorem State.writeMr_fault (b : Byte) : (s.writeMr b).fault = s.fault := rfl
@[simp] theorem State.writeMr_fcause (b : Byte) : (s.writeMr b).fcause = s.fcause := rfl
@[simp] theorem State.writeMr_fop (b : Byte) : (s.writeMr b).fop = s.fop := rfl
@[simp] theorem State.writeMr_inputs (b : Byte) : (s.writeMr b).inputs = s.inputs := rfl

/-! takeFault -/

@[simp] theorem State.takeFault_sr (c : FaultCause) (w : Word) : (s.takeFault c w).sr = s.sr := rfl
@[simp] theorem State.takeFault_fr (c : FaultCause) (w : Word) : (s.takeFault c w).fr = s.fr := rfl
@[simp] theorem State.takeFault_mr (c : FaultCause) (w : Word) : (s.takeFault c w).mr = s.mr := rfl
@[simp] theorem State.takeFault_srDef (c : FaultCause) (w : Word) : (s.takeFault c w).srDef = s.srDef := rfl
@[simp] theorem State.takeFault_frDef (c : FaultCause) (w : Word) : (s.takeFault c w).frDef = s.frDef := rfl
@[simp] theorem State.takeFault_mrDef (c : FaultCause) (w : Word) : (s.takeFault c w).mrDef = s.mrDef := rfl
@[simp] theorem State.takeFault_result (c : FaultCause) (w : Word) : (s.takeFault c w).result = s.result := rfl
@[simp] theorem State.takeFault_rkind (c : FaultCause) (w : Word) : (s.takeFault c w).rkind = s.rkind := rfl
@[simp] theorem State.takeFault_fault (c : FaultCause) (w : Word) : (s.takeFault c w).fault = true := rfl
@[simp] theorem State.takeFault_fcause (c : FaultCause) (w : Word) : (s.takeFault c w).fcause = causeCode c := rfl
@[simp] theorem State.takeFault_fop (c : FaultCause) (w : Word) : (s.takeFault c w).fop = w := rfl
@[simp] theorem State.takeFault_inputs (c : FaultCause) (w : Word) : (s.takeFault c w).inputs = s.inputs := rfl

/-! withInputs -/

@[simp] theorem State.withInputs_sr (rest : List PortIn) : (s.withInputs rest).sr = s.sr := rfl
@[simp] theorem State.withInputs_fr (rest : List PortIn) : (s.withInputs rest).fr = s.fr := rfl
@[simp] theorem State.withInputs_mr (rest : List PortIn) : (s.withInputs rest).mr = s.mr := rfl
@[simp] theorem State.withInputs_srDef (rest : List PortIn) : (s.withInputs rest).srDef = s.srDef := rfl
@[simp] theorem State.withInputs_frDef (rest : List PortIn) : (s.withInputs rest).frDef = s.frDef := rfl
@[simp] theorem State.withInputs_mrDef (rest : List PortIn) : (s.withInputs rest).mrDef = s.mrDef := rfl
@[simp] theorem State.withInputs_result (rest : List PortIn) : (s.withInputs rest).result = s.result := rfl
@[simp] theorem State.withInputs_rkind (rest : List PortIn) : (s.withInputs rest).rkind = s.rkind := rfl
@[simp] theorem State.withInputs_fault (rest : List PortIn) : (s.withInputs rest).fault = s.fault := rfl
@[simp] theorem State.withInputs_fcause (rest : List PortIn) : (s.withInputs rest).fcause = s.fcause := rfl
@[simp] theorem State.withInputs_fop (rest : List PortIn) : (s.withInputs rest).fop = s.fop := rfl
@[simp] theorem State.withInputs_inputs (rest : List PortIn) : (s.withInputs rest).inputs = rest := rfl

/-! applyReset -/

@[simp] theorem State.applyReset_sr : s.applyReset.sr = State.reset.sr := rfl
@[simp] theorem State.applyReset_fr : s.applyReset.fr = State.reset.fr := rfl
@[simp] theorem State.applyReset_mr : s.applyReset.mr = State.reset.mr := rfl
@[simp] theorem State.applyReset_srDef : s.applyReset.srDef = State.reset.srDef := rfl
@[simp] theorem State.applyReset_frDef : s.applyReset.frDef = State.reset.frDef := rfl
@[simp] theorem State.applyReset_mrDef : s.applyReset.mrDef = State.reset.mrDef := rfl
@[simp] theorem State.applyReset_result : s.applyReset.result = State.reset.result := rfl
@[simp] theorem State.applyReset_rkind : s.applyReset.rkind = State.reset.rkind := rfl
@[simp] theorem State.applyReset_fault : s.applyReset.fault = State.reset.fault := rfl
@[simp] theorem State.applyReset_fcause : s.applyReset.fcause = State.reset.fcause := rfl
@[simp] theorem State.applyReset_fop : s.applyReset.fop = State.reset.fop := rfl
@[simp] theorem State.applyReset_inputs : s.applyReset.inputs = s.inputs := rfl

end

end Sys2Proof.Machine
end

