-- ==== Sys2Proof/Laws/Ops.lean ====
section
/-!
SUPPORT. For each shared operation, everything it can do.
-/

namespace Sys2Proof.Machine

variable {s t : State} {i : Instr} {k : Out}

theorem accept_faulted (h : s.fault = true) : accept s k = .fault .stuck := by simp [accept, h]

theorem accept_ready (h : s.fault = false) : accept s k = k := by simp [accept, h]

theorem accept_next_iff : accept s k = .next t ↔ s.fault = false ∧ k = .next t := by
  cases h : s.fault <;> simp [accept, h]

theorem requireDefined_next_iff {d : Bool} :
    requireDefined i d s k = .next t ↔
      (d = true ∧ k = .next t) ∨ (d = false ∧ t = s.takeFault .undefinedRead (encode i)) := by
  cases d <;> simp [requireDefined, eq_comm]

theorem illegalWord_next_iff {w : Word} :
    illegalWord w s = .next t ↔ s.fault = false ∧ t = s.takeFault .illegalOp w := by
  simp only [illegalWord, accept_next_iff, Host.Outcome.next.injEq, eq_comm (b := t)]

theorem withSr_ready {f : Byte → Out} (h : s.fault = false) (hd : s.srDef = true) : withSr i s f = f s.sr := by
  simp [withSr, accept, requireDefined, h, hd]

theorem withFr_ready {f : Byte → Out} (h : s.fault = false) (hd : s.frDef = true) : withFr i s f = f s.fr := by
  simp [withFr, accept, requireDefined, h, hd]

theorem withMr_ready {f : Byte → Out} (h : s.fault = false) (hd : s.mrDef = true) : withMr i s f = f s.mr := by
  simp [withMr, accept, requireDefined, h, hd]

theorem withSr_undefined {f : Byte → Out} (h : s.fault = false) (hd : s.srDef = false) :
    withSr i s f = .next (s.takeFault .undefinedRead (encode i)) := by
  simp [withSr, accept, requireDefined, h, hd]

theorem withFr_undefined {f : Byte → Out} (h : s.fault = false) (hd : s.frDef = false) :
    withFr i s f = .next (s.takeFault .undefinedRead (encode i)) := by
  simp [withFr, accept, requireDefined, h, hd]

theorem withMr_undefined {f : Byte → Out} (h : s.fault = false) (hd : s.mrDef = false) :
    withMr i s f = .next (s.takeFault .undefinedRead (encode i)) := by
  simp [withMr, accept, requireDefined, h, hd]

theorem withSr_next_iff {f : Byte → Out} :
    withSr i s f = .next t ↔ s.fault = false ∧
      ((s.srDef = true ∧ f s.sr = .next t) ∨ (s.srDef = false ∧ t = s.takeFault .undefinedRead (encode i))) := by
  simp [withSr, accept_next_iff, requireDefined_next_iff]

theorem withFr_next_iff {f : Byte → Out} :
    withFr i s f = .next t ↔ s.fault = false ∧
      ((s.frDef = true ∧ f s.fr = .next t) ∨ (s.frDef = false ∧ t = s.takeFault .undefinedRead (encode i))) := by
  simp [withFr, accept_next_iff, requireDefined_next_iff]

theorem withMr_next_iff {f : Byte → Out} :
    withMr i s f = .next t ↔ s.fault = false ∧
      ((s.mrDef = true ∧ f s.mr = .next t) ∨ (s.mrDef = false ∧ t = s.takeFault .undefinedRead (encode i))) := by
  simp [withMr, accept_next_iff, requireDefined_next_iff]

theorem orFault_next_iff {α : Type} {r : Except FaultCause α} {f : α → State} :
    orFault i s r f = .next t ↔
      (∃ v, r = .ok v ∧ t = f v) ∨ (∃ c, r = .error c ∧ t = s.takeFault c (encode i)) := by
  cases r <;> simp [orFault, eq_comm]

end Sys2Proof.Machine
end

