-- ==== Sys2Proof/Laws/Flags.lean ====
section
/-!
SUPPORT. What the field extractions and the packings can give.
-/

namespace Sys2Proof.Machine

/-- ALL_MASK is 0x70 (42_interrupt_mask.md R81). -/
theorem allMask_eq : allMask = 0x70#8 := by decide

theorem sourceMask_within_allMask (s : Source) : sourceMask s &&& 0x8F#8 = 0x00#8 := by cases s <;> decide

theorem sanitize_within_allMask (b : Byte) : sanitize b &&& 0x8F#8 = 0x00#8 := by
  rw [sanitize, BitVec.and_assoc, show allMask &&& 0x8F#8 = 0x00#8 by decide, BitVec.and_zero]

theorem maskWith_within_allMask {m : Byte} (h : m &&& 0x8F#8 = 0x00#8) (s : Source) :
    maskWith m s &&& 0x8F#8 = 0x00#8 := by
  rw [maskWith, BitVec.and_or_distrib_right, h, sourceMask_within_allMask, BitVec.or_zero]

/-- A mask that holds no stray bit is unchanged by sanitisation. -/
theorem sanitize_of_within {m : Byte} : m &&& 0x8F#8 = 0x00#8 → sanitize m = m := by
  revert m; decide

theorem maskContains_maskWith (m : Byte) (s t : Source) :
    maskContains (maskWith m s) t = (decide (t = s) || maskContains m t) := by
  cases s <;> cases t <;> simp [maskContains, maskWith, sourceMask, bitOf]

theorem maskWith_comm (m : Byte) (s t : Source) : maskWith (maskWith m s) t = maskWith (maskWith m t) s := by
  simp only [maskWith, BitVec.or_assoc, BitVec.or_comm (sourceMask s)]

theorem maskWith_idem (m : Byte) (s : Source) : maskWith (maskWith m s) s = maskWith m s := by
  simp only [maskWith, BitVec.or_assoc, BitVec.or_self]

/-- The three cases of `pipe_decode` (40_status_register.md R70). -/
theorem pipeDecode_cases (b : Byte) :
    (∃ p : DataPipeIndex, pipeDecode b = .ok (some p) ∧ (srPipeField b).toNat = p.val) ∨
      (pipeDecode b = .ok none ∧ srPipeField b = 0b111#3) ∨
      (pipeDecode b = .error .reservedPipe ∧ srPipeField b = 0b110#3) := by
  have key : ∀ f : BitVec 3, ¬ f.toNat < Config.pipeCount → f ≠ 0b111#3 → f = 0b110#3 := by decide
  unfold pipeDecode
  split
  · exact .inl ⟨_, rfl, rfl⟩
  · split
    · exact .inr (.inl ⟨rfl, ‹_›⟩)
    · exact .inr (.inr ⟨rfl, key _ ‹_› ‹_›⟩)

theorem pipeDecode_error_iff (b : Byte) {c : FaultCause} :
    pipeDecode b = .error c ↔ srPipeField b = 0b110#3 ∧ c = .reservedPipe := by
  have h6 : ∀ p : DataPipeIndex, p.val ≠ 6 := by decide
  rcases pipeDecode_cases b with ⟨p, h, hp⟩ | ⟨h, hf⟩ | ⟨h, hf⟩
  · rw [h]
    simp only [reduceCtorEq, false_iff, not_and]
    intro hf
    exact absurd (by simpa [hf] using hp.symm) (h6 p)
  · simp [h, hf]
  · simp [h, hf, eq_comm]

/-- The cases of the report (40_status_register.md R72). -/
theorem srReport_error_iff (b : Byte) {c : FaultCause} :
    srReport b = .error c ↔ srInvalid b = false ∧ srPipeField b = 0b110#3 ∧ c = .reservedPipe := by
  rw [← pipeDecode_error_iff b]
  unfold srReport
  cases srInvalid b <;> cases pipeDecode b <;> simp

theorem srReport_ok_cases {b : Byte} {r : Option StatusReport} (h : srReport b = .ok r) :
    (srInvalid b = true ∧ r = none) ∨
      (srInvalid b = false ∧ ∃ p, pipeDecode b = .ok p ∧
        r = some ⟨srDataReady b, srDataSent b, srRetriesExhausted b, p, srTxFull b⟩) := by
  unfold srReport at h
  cases hi : srInvalid b <;> cases hp : pipeDecode b <;> simp_all

end Sys2Proof.Machine
end

