-- ==== Sys2Proof/Laws/Packing.lean ====
section
/-!
SUPPORT. Every value a result primitive packs has the packing its kind promises (10_state.md R29, R30).
-/

namespace Sys2Proof.Machine

theorem none_fits : resultFits (kindCode .none) 0x0000#16 = true := by decide

theorem byte_fits (b : Byte) : resultFits (kindCode .byte) (b.setWidth 16) = true := by
  revert b; decide

theorem bool_fits (f : Bool) : resultFits (kindCode .bool) ((BitVec.ofBool f).setWidth 16) = true := by
  cases f <;> decide

theorem pipe_fits (p : Option DataPipeIndex) : resultFits (kindCode .pipe) ((pipeBits p).setWidth 16) = true := by
  cases p with
  | none => decide
  | some p => revert p; decide

theorem report_fits (r : Option StatusReport) :
    resultFits (kindCode .report) ((reportBits r).setWidth 16) = true := by
  cases r with
  | none => decide
  | some r =>
    obtain ⟨dr, ds, rt, p, tx⟩ := r
    cases p with
    | none => revert dr ds rt tx; decide
    | some p => revert dr ds rt tx p; decide

end Sys2Proof.Machine
end

