-- ==== Sys2Proof/Laws/Exec.lean ====
section
/-!
SUPPORT. What an operation that goes on can leave behind, over all operations.
-/

namespace Sys2Proof.Machine

/-- In a faulted state every operation is stuck (60_exceptions.md R98). -/
theorem exec_of_faulted (i : Instr) {s : State} (h : s.fault = true) : exec i s = .fault .stuck := by
  cases i <;> exact accept_faulted h

/-- Everything an operation can do to a state that is not faulted. -/
inductive Effect (i : Instr) (s : State) : State → Prop where
  /-- It read an undefined holding register (60_exceptions.md R93). -/
  | undefinedRead (h : readsUndefined i s = true) : Effect i s (s.takeFault .undefinedRead (encode i))
  /-- It met the reserved pipe field (60_exceptions.md R91). -/
  | reservedPipe (hd : readsUndefined i s = false) (hc : pipeCheckApplies i s = true) (hp : s.pipeReserved = true) :
      Effect i s (s.takeFault .reservedPipe (encode i))
  /-- A query: it wrote a result of its kind. -/
  | result (hd : readsUndefined i s = false) (hw : writesHolding i = none) (v : Word) (k : Kind)
      (hv : resultFits (kindCode k) v = true) : Effect i s (s.setResult v k)
  /-- It wrote SR. -/
  | wroteSr (hw : writesHolding i = some .sr) (b : Byte) : Effect i s ((s.writeSr b).setResult 0x0000#16 .none)
  /-- It wrote FR. -/
  | wroteFr (hw : writesHolding i = some .fr) (b : Byte) : Effect i s ((s.writeFr b).setResult 0x0000#16 .none)
  /-- It wrote MR, and kept it within its three bits (10_state.md R19). -/
  | wroteMr (hd : readsUndefined i s = false) (hw : writesHolding i = some .mr) (b : Byte)
      (hb : (s.mrDef = true → s.mr &&& 0x8F#8 = 0x00#8) → b &&& 0x8F#8 = 0x00#8) :
      Effect i s ((s.writeMr b).setResult 0x0000#16 .none)

section
variable {i : Instr} {s t : State}

theorem query_effect {d : Bool} {o : Except FaultCause (Word × Kind)} (hr : readsUndefined i s = !d)
    (hw : writesHolding i = none) (hv : ∀ v k, o = .ok (v, k) → resultFits (kindCode k) v = true)
    (he : ∀ c, o = .error c → c = .reservedPipe ∧ pipeCheckApplies i s = true ∧ s.pipeReserved = true)
    (h : requireDefined i d s (orFault i s o fun p => s.setResult p.1 p.2) = .next t) : Effect i s t := by
  rcases requireDefined_next_iff.1 h with ⟨hd, h⟩ | ⟨hd, rfl⟩
  · rcases orFault_next_iff.1 h with ⟨p, hp, rfl⟩ | ⟨c, hc, rfl⟩
    · exact .result (by simp [hr, hd]) hw _ _ (hv p.1 p.2 hp)
    · obtain ⟨rfl, hp⟩ := he c hc
      exact .reservedPipe (by simp [hr, hd]) hp.1 hp.2
  · exact .undefinedRead (by simp [hr, hd])

/-- A query whose value is always there. -/
theorem plain_query_effect {d : Bool} (v : Word) (k : Kind) (hr : readsUndefined i s = !d)
    (hw : writesHolding i = none) (hv : resultFits (kindCode k) v = true)
    (h : requireDefined i d s (.next (s.setResult v k)) = .next t) : Effect i s t :=
  query_effect (o := .ok (v, k)) hr hw (by rintro _ _ ⟨⟩; exact hv) nofun h

/-- A builder: it sets bits of a defined MR. -/
theorem builder_effect (x : Source) (hr : readsUndefined i s = !s.mrDef) (hw : writesHolding i = some .mr)
    (h : requireDefined i s.mrDef s (.next ((s.writeMr (maskWith s.mr x)).resultNone)) = .next t) : Effect i s t := by
  rcases requireDefined_next_iff.1 h with ⟨hd, h⟩ | ⟨hd, rfl⟩
  · obtain rfl := Host.Outcome.next.inj h
    exact .wroteMr (by simp [hr, hd]) hw _ fun hm => maskWith_within_allMask (hm hd) x
  · exact .undefinedRead (by simp [hr, hd])

/-- An operation that goes on was not faulted, and did one of these. -/
theorem exec_effect (h : exec i s = .next t) : s.fault = false ∧ Effect i s t := by
  cases i with
  | srLoad b =>
    obtain ⟨hf, h⟩ := accept_next_iff.1 h
    obtain rfl := Host.Outcome.next.inj h
    exact ⟨hf, .wroteSr rfl b⟩
  | frLoad b =>
    obtain ⟨hf, h⟩ := accept_next_iff.1 h
    obtain rfl := Host.Outcome.next.inj h
    exact ⟨hf, .wroteFr rfl b⟩
  | imEmpty =>
    obtain ⟨hf, h⟩ := accept_next_iff.1 h
    obtain rfl := Host.Outcome.next.inj h
    exact ⟨hf, .wroteMr rfl rfl _ fun _ => by decide⟩
  | imAll =>
    obtain ⟨hf, h⟩ := accept_next_iff.1 h
    obtain rfl := Host.Outcome.next.inj h
    exact ⟨hf, .wroteMr rfl rfl _ fun _ => by decide⟩
  | imLoad b =>
    obtain ⟨hf, h⟩ := accept_next_iff.1 h
    obtain rfl := Host.Outcome.next.inj h
    exact ⟨hf, .wroteMr rfl rfl _ fun _ => sanitize_within_allMask b⟩
  | imWithTf => exact (accept_next_iff.1 h).imp id (builder_effect .txFailed rfl rfl)
  | imWithTo => exact (accept_next_iff.1 h).imp id (builder_effect .txOk rfl rfl)
  | imWithDr => exact (accept_next_iff.1 h).imp id (builder_effect .dataReady rfl rfl)
  | srRaw => exact (accept_next_iff.1 h).imp id (plain_query_effect _ _ rfl rfl (byte_fits _))
  | imRaw => exact (accept_next_iff.1 h).imp id (plain_query_effect _ _ rfl rfl (byte_fits _))
  | srPipe =>
    refine (accept_next_iff.1 h).imp id fun h => ?_
    refine query_effect (d := s.srDef) (o := (pipeDecode s.sr).map fun p => ((pipeBits p).setWidth 16, .pipe)) rfl rfl ?_ ?_ ?_
    · intro v k hv
      cases hp : pipeDecode s.sr <;> simp [hp, Except.map] at hv
      obtain ⟨rfl, rfl⟩ := hv
      exact pipe_fits _
    · intro c hc
      cases hp : pipeDecode s.sr <;> simp [hp, Except.map] at hc
      obtain ⟨h6, rfl⟩ := (pipeDecode_error_iff s.sr).1 hp
      exact ⟨hc.symm, rfl, by simpa [State.pipeReserved, srPipeField] using h6⟩
    · rw [← h]; dsimp only; cases pipeDecode s.sr <;> rfl
  | srReport =>
    refine (accept_next_iff.1 h).imp id fun h => ?_
    refine query_effect (d := s.srDef) (o := (srReport s.sr).map fun r => ((reportBits r).setWidth 16, .report)) rfl rfl
      ?_ ?_ ?_
    · intro v k hv
      cases hp : srReport s.sr <;> simp [hp, Except.map] at hv
      obtain ⟨rfl, rfl⟩ := hv
      exact report_fits _
    · intro c hc
      cases hp : srReport s.sr <;> simp [hp, Except.map] at hc
      obtain ⟨h7, h6, rfl⟩ := (srReport_error_iff s.sr).1 hp
      exact ⟨hc.symm, by simpa [pipeCheckApplies, srInvalid] using h7, by simpa [State.pipeReserved, srPipeField] using h6⟩
    · rw [← h]; dsimp only; cases srReport s.sr <;> rfl
  | _ => exact (accept_next_iff.1 h).imp id (plain_query_effect _ _ rfl rfl (bool_fits _))

end

/-- What the host presents does not reach an operation's meaning, which leaves it alone. -/
theorem exec_withInputs {i : Instr} {s t : State} (rest : List PortIn) (h : exec i s = .next t) :
    exec i (s.withInputs rest) = .next (t.withInputs rest) := by
  have hf := (exec_effect h).1
  cases i <;>
    simp_all only [exec, execSrLoad, execSrRaw, execSrValid, execSrDr, execSrDs, execSrRt, execSrPipe, execSrTxf, execSrReport,
      execFrLoad, execFrTxFull, execFrTxEmpty, execFrRxFull, execFrRxEmpty, execImEmpty, execImAll, execImWithTf,
      execImWithTo, execImWithDr, execImContainsTf, execImContainsTo, execImContainsDr, execImLoad, execImRaw,
      withSr, withFr, withMr, accept, requireDefined, orFault, State.withInputs] <;>
    grind [State.setResult, State.writeSr, State.writeFr, State.writeMr, State.takeFault, State.resultNone,
      State.resultByte, State.resultBool, State.resultPipe, State.resultReport]

end Sys2Proof.Machine
end

