-- ==== Sys2Proof/Laws/PerInstr.lean ====
section
/-!
SUPPORT. One lemma per operation: its fields pass the seven checks of 30_encoding.md R57.
-/

namespace Sys2Proof.Laws.Legal

/-- The fields of the operation pass every check of 30_encoding.md R57. -/
abbrev Statement (i : Instr) : Prop := (instrFields i).wellFormed = true

theorem srLoad (b : Byte) : Statement (.srLoad b) := by revert b; decide
theorem srRaw : Statement .srRaw := by decide
theorem srValid : Statement .srValid := by decide
theorem srDr : Statement .srDr := by decide
theorem srDs : Statement .srDs := by decide
theorem srRt : Statement .srRt := by decide
theorem srPipe : Statement .srPipe := by decide
theorem srTxf : Statement .srTxf := by decide
theorem srReport : Statement .srReport := by decide
theorem frLoad (b : Byte) : Statement (.frLoad b) := by revert b; decide
theorem frTxFull : Statement .frTxFull := by decide
theorem frTxEmpty : Statement .frTxEmpty := by decide
theorem frRxFull : Statement .frRxFull := by decide
theorem frRxEmpty : Statement .frRxEmpty := by decide
theorem imEmpty : Statement .imEmpty := by decide
theorem imAll : Statement .imAll := by decide
theorem imWithTf : Statement .imWithTf := by decide
theorem imWithTo : Statement .imWithTo := by decide
theorem imWithDr : Statement .imWithDr := by decide
theorem imContainsTf : Statement .imContainsTf := by decide
theorem imContainsTo : Statement .imContainsTo := by decide
theorem imContainsDr : Statement .imContainsDr := by decide
theorem imLoad (b : Byte) : Statement (.imLoad b) := by revert b; decide
theorem imRaw : Statement .imRaw := by decide

end Sys2Proof.Laws.Legal
end

