-- ==== Sys2Proof/Laws/Port.lean ====
section
/-!
SUPPORT. Everything a step can take from the input port.
-/

namespace Sys2Proof.Machine

variable {s : State} {p : PortIn} {rest : List PortIn}

/-- What a step takes while no fault has been taken. -/
theorem fetch_ready (hf : s.fault = false) (hi : s.inputs = p :: rest) :
    fetch s = if p.rst then .reset rest else if p.opValid then .word p.opWord rest else .idle rest := by
  simp [fetch, hf, hi]

theorem fetch_waiting (hf : s.fault = false) (hi : s.inputs = []) : fetch s = .waiting := by simp [fetch, hf, hi]

/-- A faulted block takes a reset or nothing. -/
theorem fetch_faulted (hf : s.fault = true) :
    (∃ rest, afterReset s.inputs = some rest ∧ fetch s = .reset rest) ∨
      (afterReset s.inputs = none ∧ fetch s = .stuck) := by
  cases h : afterReset s.inputs <;> simp [fetch, hf, h]

theorem fetch_word_iff {w : Word} :
    fetch s = .word w rest ↔
      s.fault = false ∧ ∃ p, s.inputs = p :: rest ∧ p.rst = false ∧ p.opValid = true ∧ p.opWord = w := by
  unfold fetch
  cases hf : s.fault
  · cases hi : s.inputs with
    | nil => simp
    | cons q qs =>
      cases hr : q.rst <;> cases hv : q.opValid <;> simp [hr, hv]
      exact and_comm
  · cases h : afterReset s.inputs <;> simp

/-- There is a reset ahead exactly when some sample asserts `rst`. -/
theorem afterReset_eq_none_iff {l : List PortIn} : afterReset l = none ↔ ∀ p ∈ l, p.rst = false := by
  induction l with
  | nil => simp [afterReset]
  | cons p l ih => cases h : p.rst <;> simp [afterReset, h, ih]

theorem afterReset_append_reset {l : List PortIn} (h : ∀ q ∈ l, q.rst = false) (hp : p.rst = true) :
    afterReset (l ++ p :: rest) = some rest := by
  induction l with
  | nil => simp [afterReset, hp]
  | cons q l ih =>
    have hq := h q (by simp)
    simpa [afterReset, hq] using ih fun r hr => h r (by simp [hr])

end Sys2Proof.Machine
end

