-- ==== Sys2Proof/Laws/Step.lean ====
section
/-!
SUPPORT. Everything a step that goes on can have been.
-/

namespace Sys2Proof.Machine

/-- A step that goes on waited, let a sample pass, took a reset, ran an operation, or took IllegalOp. -/
theorem step_next_cases {s t : State} (h : step s = .next t) :
    (s.fault = false ∧ t = s) ∨ (s.fault = false ∧ ∃ rest, t = s.withInputs rest) ∨
      (∃ rest, t = (s.withInputs rest).applyReset) ∨
      (s.fault = false ∧ ∃ p rest, s.inputs = p :: rest ∧ p.rst = false ∧ p.opValid = true ∧
        ((∃ i, decode p.opWord = .ok i ∧ exec i (s.withInputs rest) = .next t) ∨
          (∃ e, decode p.opWord = .error e ∧ t = (s.withInputs rest).takeFault .illegalOp p.opWord))) := by
  unfold step at h
  cases hx : fetch s with
  | waiting =>
    have hf : s.fault = false := by
      by_contra hf
      rcases fetch_faulted (by simpa using hf) with ⟨r, -, he⟩ | ⟨-, he⟩ <;> simp [he] at hx
    exact .inl ⟨hf, by simpa [hx, eq_comm] using h⟩
  | idle rest =>
    have hf : s.fault = false := by
      by_contra hf
      rcases fetch_faulted (by simpa using hf) with ⟨r, -, he⟩ | ⟨-, he⟩ <;> simp [he] at hx
    exact .inr (.inl ⟨hf, rest, by simpa [hx, eq_comm] using h⟩)
  | reset rest => exact .inr (.inr (.inl ⟨rest, by simpa [hx, eq_comm] using h⟩))
  | word w rest =>
    obtain ⟨hf, p, hi, hr, hv, rfl⟩ := fetch_word_iff.1 hx
    refine .inr (.inr (.inr ⟨hf, p, rest, hi, hr, hv, ?_⟩))
    simp only [hx, runWord] at h
    split at h
    · exact .inl ⟨_, ‹_›, h⟩
    · exact .inr ⟨_, ‹_›, (illegalWord_next_iff.1 h).2⟩
  | stuck => simp [hx] at h

end Sys2Proof.Machine
end

