-- ==== Sys2Proof/Tests/Slice0.lean ====
section
/-!
SUPPORT. Tests whose expected results come from spec/, and for every obligation with hypotheses a state that meets them.
-/

namespace Sys2Proof.Tests

open Sys2Proof.Machine

/-! ## Well-formedness: an ill-formed word for each check of 30_encoding.md R57 -/

theorem test_wf_refuses_unit : (OpFields.mk 0b11#2 0x0#4 0b00#2 0x00#8).illegality = some .unitReserved := by decide
theorem test_wf_refuses_sr_fn : (OpFields.mk 0b00#2 0x9#4 0b00#2 0x00#8).illegality = some .srFnReserved := by decide
theorem test_wf_refuses_fr_fn : (OpFields.mk 0b01#2 0x5#4 0b00#2 0x00#8).illegality = some .frFnReserved := by decide
theorem test_wf_refuses_im_fn : (OpFields.mk 0b10#2 0x6#4 0b00#2 0x00#8).illegality = some .imFnReserved := by decide
theorem test_wf_refuses_src : (OpFields.mk 0b10#2 0x2#4 0b11#2 0x00#8).illegality = some .srcReserved := by decide
theorem test_wf_refuses_src_not_zero : (OpFields.mk 0b00#2 0x0#4 0b01#2 0x00#8).illegality = some .srcNotZero := by decide
theorem test_wf_refuses_imm8 : (OpFields.mk 0b00#2 0x1#4 0b00#2 0x01#8).illegality = some .imm8NotZero := by decide
theorem test_wf_accepts_load : (OpFields.mk 0b10#2 0x4#4 0b00#2 0xFF#8).wellFormed = true := by decide

/-! ## Decoding: the words of 30_encoding.md R63, bit 15 first -/

theorem test_decode_srLoad : decode 0b0000000001001011#16 = .ok (.srLoad 0x4B#8) := by decide
theorem test_decode_srRaw : decode 0b0000010000000000#16 = .ok .srRaw := by decide
theorem test_decode_srValid : decode 0b0000100000000000#16 = .ok .srValid := by decide
theorem test_decode_srDr : decode 0b0000110000000000#16 = .ok .srDr := by decide
theorem test_decode_srDs : decode 0b0001000000000000#16 = .ok .srDs := by decide
theorem test_decode_srRt : decode 0b0001010000000000#16 = .ok .srRt := by decide
theorem test_decode_srPipe : decode 0b0001100000000000#16 = .ok .srPipe := by decide
theorem test_decode_srTxf : decode 0b0001110000000000#16 = .ok .srTxf := by decide
theorem test_decode_srReport : decode 0b0010000000000000#16 = .ok .srReport := by decide
theorem test_decode_frLoad : decode 0b0100000000110011#16 = .ok (.frLoad 0x33#8) := by decide
theorem test_decode_frTxFull : decode 0b0100010000000000#16 = .ok .frTxFull := by decide
theorem test_decode_frTxEmpty : decode 0b0100100000000000#16 = .ok .frTxEmpty := by decide
theorem test_decode_frRxFull : decode 0b0100110000000000#16 = .ok .frRxFull := by decide
theorem test_decode_frRxEmpty : decode 0b0101000000000000#16 = .ok .frRxEmpty := by decide
theorem test_decode_imEmpty : decode 0b1000000000000000#16 = .ok .imEmpty := by decide
theorem test_decode_imAll : decode 0b1000010000000000#16 = .ok .imAll := by decide
theorem test_decode_imWithTf : decode 0b1000100000000000#16 = .ok .imWithTf := by decide
theorem test_decode_imWithTo : decode 0b1000100100000000#16 = .ok .imWithTo := by decide
theorem test_decode_imWithDr : decode 0b1000101000000000#16 = .ok .imWithDr := by decide
theorem test_decode_imContainsTf : decode 0b1000110000000000#16 = .ok .imContainsTf := by decide
theorem test_decode_imContainsTo : decode 0b1000110100000000#16 = .ok .imContainsTo := by decide
theorem test_decode_imContainsDr : decode 0b1000111000000000#16 = .ok .imContainsDr := by decide
theorem test_decode_imLoad : decode 0b1001000001011010#16 = .ok (.imLoad 0x5A#8) := by decide
theorem test_decode_imRaw : decode 0b1001010000000000#16 = .ok .imRaw := by decide

/-- The illegal words of 95_test_vectors.md section 2.4. -/
theorem test_decode_illegal :
    [0xC000#16, 0x2400#16, 0x5400#16, 0x9800#16, 0x8B00#16, 0x8F00#16, 0x0401#16, 0x0100#16, 0x9100#16, 0x8001#16].map decode =
      [.error .unitReserved, .error .srFnReserved, .error .frFnReserved, .error .imFnReserved, .error .srcReserved,
       .error .srcReserved, .error .imm8NotZero, .error .srcNotZero, .error .srcNotZero, .error .imm8NotZero] := by decide

theorem test_decodeTableWord : decodeTableWord 16 0x8E00 = some .imContainsDr := by decide

/-! ## The states the tests start from -/

/-- Every holding register loaded, nothing faulted. -/
def loaded (sr fr mr : Byte) : State :=
  { State.reset with sr := sr, fr := fr, mr := mr, srDef := true, frDef := true, mrDef := true }

/-- SR loaded with a reserved pipe field and faulted by SR_PIPE (95_test_vectors.md P4). -/
def faulted : State := { State.reset with sr := 0x0C#8, srDef := true, fault := true, fcause := 0b01#2, fop := 0x1800#16 }

/-- RESULT and RKIND of a state that goes on without a fault. -/
def resultOf : Out → Option (Word × BitVec 3)
  | .next t => if t.fault then none else some (t.result, t.rkind)
  | _ => none

/-- FCAUSE and FOP of a state that has taken a fault. -/
def faultOf : Out → Option (BitVec 2 × Word)
  | .next t => if t.fault then some (t.fcause, t.fop) else none
  | _ => none

/-- MR of a state that goes on. -/
def maskOf : Out → Option Byte
  | .next t => some t.mr
  | _ => none

/-! ## Unit SR: 95_test_vectors.md sections 1 and 2.1 -/

theorem test_srLoad_replaces : exec (.srLoad 0xB4#8) (loaded 0x4B#8 0#8 0#8) = .next (loaded 0xB4#8 0#8 0#8) := by rfl
theorem test_srRaw : resultOf (exec .srRaw (loaded 0x8C#8 0#8 0#8)) = some (0x008C#16, 0b001#3) := by decide
theorem test_srValid_boundary : resultOf (exec .srValid (loaded 0x7F#8 0#8 0#8)) = some (0x0001#16, 0b010#3) ∧
    resultOf (exec .srValid (loaded 0x80#8 0#8 0#8)) = some (0x0000#16, 0b010#3) := by decide
theorem test_srValid_undefined : faultOf (exec .srValid State.reset) = some (0b11#2, 0x0800#16) := by decide
theorem test_srDr : resultOf (exec .srDr (loaded 0x40#8 0#8 0#8)) = some (0x0001#16, 0b010#3) ∧
    resultOf (exec .srDr (loaded 0xBF#8 0#8 0#8)) = some (0x0000#16, 0b010#3) := by decide
theorem test_srDs : resultOf (exec .srDs (loaded 0x20#8 0#8 0#8)) = some (0x0001#16, 0b010#3) ∧
    resultOf (exec .srDs (loaded 0xDF#8 0#8 0#8)) = some (0x0000#16, 0b010#3) := by decide
theorem test_srRt : resultOf (exec .srRt (loaded 0x10#8 0#8 0#8)) = some (0x0001#16, 0b010#3) ∧
    resultOf (exec .srRt (loaded 0xEF#8 0#8 0#8)) = some (0x0000#16, 0b010#3) := by decide
theorem test_srTxf : resultOf (exec .srTxf (loaded 0x01#8 0#8 0#8)) = some (0x0001#16, 0b010#3) ∧
    resultOf (exec .srTxf (loaded 0xFE#8 0#8 0#8)) = some (0x0000#16, 0b010#3) := by decide
/-- Vectors L1-2, L1-2a, L1-4 and the row 0x8E. -/
theorem test_srPipe : [0x70#8, 0x7E#8, 0x06#8, 0x0B#8, 0x8E#8].map (fun b => resultOf (exec .srPipe (loaded b 0#8 0#8))) =
    [some (0x0008#16, 0b011#3), some (0x0000#16, 0b011#3), some (0x000B#16, 0b011#3), some (0x000D#16, 0b011#3),
     some (0x0000#16, 0b011#3)] := by decide
/-- Vector L1-3 and the row 0x8C; and after reset PIPE is not inspected. -/
theorem test_srPipe_faults : faultOf (exec .srPipe (loaded 0x0C#8 0#8 0#8)) = some (0b01#2, 0x1800#16) ∧
    faultOf (exec .srPipe (loaded 0x8C#8 0#8 0#8)) = some (0b01#2, 0x1800#16) ∧
    faultOf (exec .srPipe State.reset) = some (0b11#2, 0x1800#16) := by decide
/-- Rows of section 2.1. -/
theorem test_srReport : [0x00#8, 0x0B#8, 0x0E#8, 0x4B#8, 0x70#8, 0x7E#8, 0x7F#8, 0x8C#8, 0xC1#8, 0xFF#8].map
      (fun b => resultOf (exec .srReport (loaded b 0#8 0#8))) =
    [0x0110#16, 0x011B#16, 0x0100#16, 0x019B#16, 0x01F0#16, 0x01E0#16, 0x01E1#16, 0x0000#16, 0x0000#16, 0x0000#16].map
      (fun r => some (r, 0b100#3)) := by decide
theorem test_srReport_faults : faultOf (exec .srReport (loaded 0x0C#8 0#8 0#8)) = some (0b01#2, 0x2000#16) := by decide

/-! ## Unit FR: 95_test_vectors.md section 2.2 -/

theorem test_frLoad : exec (.frLoad 0xCC#8) State.reset = .next { State.reset with fr := 0xCC#8, frDef := true } := by rfl
theorem test_frTxFull : [0x33#8, 0x20#8, 0x11#8, 0xCC#8].map (fun b => resultOf (exec .frTxFull (loaded 0#8 b 0#8))) =
    [some (1#16, 0b010#3), some (1#16, 0b010#3), some (0#16, 0b010#3), some (0#16, 0b010#3)] := by decide
theorem test_frTxFull_undefined :
    faultOf (exec .frTxFull { State.reset with srDef := true }) = some (0b11#2, 0x4400#16) := by decide
theorem test_frTxEmpty : [0x33#8, 0x20#8, 0x11#8, 0xCC#8].map (fun b => resultOf (exec .frTxEmpty (loaded 0#8 b 0#8))) =
    [some (1#16, 0b010#3), some (0#16, 0b010#3), some (1#16, 0b010#3), some (0#16, 0b010#3)] := by decide
theorem test_frRxFull : [0x02#8, 0x01#8, 0x22#8, 0xCC#8].map (fun b => resultOf (exec .frRxFull (loaded 0#8 b 0#8))) =
    [some (1#16, 0b010#3), some (0#16, 0b010#3), some (1#16, 0b010#3), some (0#16, 0b010#3)] := by decide
theorem test_frRxEmpty : [0x02#8, 0x01#8, 0x11#8, 0xCC#8].map (fun b => resultOf (exec .frRxEmpty (loaded 0#8 b 0#8))) =
    [some (0#16, 0b010#3), some (1#16, 0b010#3), some (1#16, 0b010#3), some (0#16, 0b010#3)] := by decide
theorem test_frRxEmpty_undefined : faultOf (exec .frRxEmpty State.reset) = some (0b11#2, 0x5000#16) := by decide

/-! ## Unit IM: 95_test_vectors.md section 2.3 -/

theorem test_imEmpty : exec .imEmpty (loaded 0#8 0#8 0x70#8) = .next (loaded 0#8 0#8 0#8) := by rfl
theorem test_imAll : exec .imAll State.reset = .next { State.reset with mr := 0x70#8, mrDef := true } := by rfl
theorem test_imWithTf : maskOf (exec .imWithTf (loaded 0#8 0#8 0x40#8)) = some 0x50#8 ∧
    maskOf (exec .imWithTf (loaded 0#8 0#8 0x70#8)) = some 0x70#8 := by decide
theorem test_imWithTo : maskOf (exec .imWithTo (loaded 0#8 0#8 0x00#8)) = some 0x20#8 := by decide
theorem test_imWithDr : maskOf (exec .imWithDr (loaded 0#8 0#8 0x00#8)) = some 0x40#8 ∧
    maskOf (exec .imWithDr (loaded 0#8 0#8 0x40#8)) = some 0x40#8 := by decide
theorem test_imWithDr_undefined : faultOf (exec .imWithDr State.reset) = some (0b11#2, 0x8A00#16) := by decide
theorem test_imContainsTf : resultOf (exec .imContainsTf (loaded 0#8 0#8 0x50#8)) = some (1#16, 0b010#3) ∧
    resultOf (exec .imContainsTf (loaded 0#8 0#8 0x20#8)) = some (0#16, 0b010#3) := by decide
theorem test_imContainsTo : resultOf (exec .imContainsTo (loaded 0#8 0#8 0x50#8)) = some (0#16, 0b010#3) ∧
    resultOf (exec .imContainsTo (loaded 0#8 0#8 0x70#8)) = some (1#16, 0b010#3) := by decide
theorem test_imContainsTo_undefined : faultOf (exec .imContainsTo State.reset) = some (0b11#2, 0x8D00#16) := by decide
theorem test_imContainsDr : resultOf (exec .imContainsDr (loaded 0#8 0#8 0x50#8)) = some (1#16, 0b010#3) ∧
    resultOf (exec .imContainsDr (loaded 0#8 0#8 0x00#8)) = some (0#16, 0b010#3) := by decide
theorem test_imLoad : [0xFF#8, 0x8F#8, 0x5A#8, 0x10#8, 0x00#8].map (fun b => maskOf (exec (.imLoad b) State.reset)) =
    [some 0x70#8, some 0x00#8, some 0x50#8, some 0x10#8, some 0x00#8] := by decide
theorem test_imRaw : resultOf (exec .imRaw (loaded 0#8 0#8 0x50#8)) = some (0x0050#16, 0b001#3) := by decide

/-! ## The step and the port: 95_test_vectors.md sections 2.4 and 2.5, P6 -/

/-- An illegal word after reset is IllegalOp, not UndefinedRead. -/
theorem test_step_illegal_first : faultOf (step (State.reset.present [0x0401#16])) = some (0b10#2, 0x0401#16) := by decide
/-- A word presented while faulted has no step. -/
theorem test_step_faulted : step (faulted.present [0x0400#16]) = .fault .stuck := by rfl
/-- Reset beats the word presented with it. -/
theorem test_step_reset_wins :
    step (State.reset.withInputs [{ rst := true, opValid := true, opWord := 0x004B#16 }]) = .next State.reset := by rfl
/-- A word that is not accepted, then a reset: the state of 10_state.md R37. -/
theorem test_step_reset_leaves_fault : step (faulted.withInputs [presentWord 0x0400#16, assertReset]) = .next State.reset := by
  rfl
theorem test_withFetchWord : step (State.reset.withFetchWord 16 0x004B) =
    .next { State.reset with sr := 0x4B#8, srDef := true } := by rfl

/-! ## The assembler: 30_encoding.md R61, R62 -/

theorem test_assemble_load : assembleLine "SR_LOAD 0x0E ; comment".toList = some [0x000E#16] ∧
    assembleLine "FR_LOAD 0b0011_0011".toList = some [0x4033#16] ∧ assembleLine "IM_LOAD 255".toList = some [0x90FF#16] := by
  decide
theorem test_assemble_source : assembleLine "IM_CONTAINS DR".toList = some [0x8E00#16] := by decide
theorem test_assemble_refuses : assembleLine "SR_LOAD 256".toList = none ∧ assembleLine "SR_RAW 1".toList = none ∧
    assembleLine "IM_CONTAINS".toList = none := by decide
/-- 95_test_vectors.md P2: the expansion of IM_BUILD DR, TF, DR. -/
theorem test_assemble_build : assembleLine "IM_BUILD DR, TF, DR".toList =
    some [0x8000#16, 0x8A00#16, 0x8800#16, 0x8A00#16] := by decide

/-! ## Witnesses: for every obligation with hypotheses, a state and operands that meet them -/

theorem witness_EncodeDecode : decode 0x9400#16 = .ok .imRaw := by decide
theorem witness_LegalWords : (∃ e, decode 0xC000#16 = .error e) ∧ State.reset.fault = false ∧
    (State.reset.present [0xC000#16]).inputs = [presentWord 0xC000#16] := ⟨⟨.unitReserved, by decide⟩, by decide, by decide⟩
theorem witness_OpcodeMap_row : 0x90FF#16 &&& 0xFF00#16 = 0x9000#16 := by decide
theorem witness_OpcodeMap_none : opcodeMap.all (fun r => 0x8F00#16 &&& r.mask != r.value) = true := by decide
theorem witness_StepRunsDecoded : State.reset.fault = false ∧
    (State.reset.present [0x8400#16]).inputs = [presentWord 0x8400#16] ∧ (presentWord 0x8400#16).rst = false ∧
    (presentWord 0x8400#16).opValid = true ∧ decode (presentWord 0x8400#16).opWord = .ok .imAll := by decide
theorem witness_CheckOrder_faulted : (faulted.present [0x0400#16]).inputs = [presentWord 0x0400#16] ∧
    (faulted.present [0x0400#16]).fault = true := by decide
theorem witness_CheckOrder_illegal : (State.reset.present [0x8001#16]).inputs = [presentWord 0x8001#16] ∧
    (State.reset.present [0x8001#16]).fault = false ∧ decode 0x8001#16 = .error .imm8NotZero := by decide
theorem witness_CheckOrder_undefined : (State.reset.present [0x1800#16]).inputs = [presentWord 0x1800#16] ∧
    (State.reset.present [0x1800#16]).fault = false ∧ decode 0x1800#16 = .ok .srPipe ∧
    readsUndefined .srPipe (State.reset.present [0x1800#16]) = true := by decide
/-- An invalid byte with the reserved pipe field, and SR_PIPE presented. -/
def reservedNext : State := (loaded 0x8C#8 0#8 0#8).present [0x1800#16]
theorem witness_CheckOrder_reserved : reservedNext.inputs = [presentWord 0x1800#16] ∧ reservedNext.fault = false ∧
    decode 0x1800#16 = .ok .srPipe ∧ readsUndefined .srPipe reservedNext = false ∧
    pipeCheckApplies .srPipe reservedNext = true ∧ reservedNext.pipeReserved = true := by decide
/-- The same byte, and SR_REPORT presented: the pipe check does not apply. -/
def reportNext : State := (loaded 0x8C#8 0#8 0#8).present [0x2000#16]
theorem witness_CheckOrder_completes : reportNext.inputs = [presentWord 0x2000#16] ∧ reportNext.fault = false ∧
    decode 0x2000#16 = .ok .srReport ∧ readsUndefined .srReport reportNext = false ∧
    ¬ (pipeCheckApplies .srReport reportNext = true ∧ reportNext.pipeReserved = true) := by decide
theorem witness_ResetStep : (faulted.withInputs [assertReset]).inputs = [assertReset] ∧ assertReset.rst = true := by decide
theorem witness_ResetReached : faulted.fault = true ∧
    (faulted.withInputs [presentWord 0x0400#16, assertReset]).inputs = [presentWord 0x0400#16] ++ [assertReset] ∧
    (∀ q ∈ [presentWord 0x0400#16], q.rst = false) ∧ assertReset.rst = true := by decide
theorem witness_ResetStep_leaves : (faulted.withInputs [assertReset]).fault = true ∧
    step (faulted.withInputs [assertReset]) = .next State.reset := ⟨by decide, by rfl⟩
theorem witness_ResetValues : readsHolding .imRaw ≠ none := by decide
theorem witness_Waits : State.reset.fault = false ∧ State.reset.inputs = [] := by decide
theorem witness_Waits_idle : (State.reset.withInputs [⟨false, false, 0x0000#16⟩]).fault = false ∧
    (State.reset.withInputs [⟨false, false, 0x0000#16⟩]).inputs = [⟨false, false, 0x0000#16⟩] := by decide
theorem witness_OpAcceptRule : (faulted.present [0x0400#16]).inputs = [presentWord 0x0400#16] ∧
    (presentWord 0x0400#16).opValid = true ∧ (presentWord 0x0400#16).rst = false := by decide
theorem witness_FaultEntry : step (State.reset.present [0x0800#16]) =
      .next { State.reset with fault := true, fcause := 0b11#2, fop := 0x0800#16 } ∧
    (State.reset.present [0x0800#16]).fault = false := ⟨by rfl, by decide⟩
theorem witness_FaultedStuck : faulted.fault = true ∧
    (∀ p ∈ (faulted.present [0x0400#16]).inputs, p.rst = false) := by decide
theorem witness_FaultedStuck_stops : step faulted = .fault .stuck := by rfl
theorem witness_InvStep : State.reset.Inv ∧ step (State.reset.withInputs [assertReset]) = .next State.reset :=
  ⟨⟨by decide, by decide, by decide, fun h => absurd h (by decide)⟩, by rfl⟩
theorem witness_InvStep_faulted : faulted.Inv :=
  ⟨by decide, by decide, by decide, fun _ => .inl (by decide)⟩
theorem witness_MaskInvariant : (loaded 0#8 0#8 0x50#8).mr &&& 0x8F#8 = 0x00#8 ∧ (loaded 0#8 0#8 0x50#8).mrDef = true ∧
    step ((loaded 0#8 0#8 0x50#8).present [0x8900#16]) = .next (loaded 0#8 0#8 0x70#8) := ⟨by decide, by decide, by rfl⟩
/-- Two states that differ, and only in a register whose defined bit is 0. -/
theorem witness_UndefinedHidden : State.reset.Alike { State.reset with sr := 0xFF#8 } ∧
    State.reset ≠ { State.reset with sr := 0xFF#8 } :=
  ⟨⟨by decide, by decide, by decide, by decide, by decide, by decide, by decide, by decide⟩, by decide⟩
theorem witness_HoldingFrame : exec (.srLoad 0x0E#8) State.reset =
      .next { State.reset with sr := 0x0E#8, srDef := true } ∧
    writesHolding (.srLoad 0x0E#8) = some .sr ∧ writesHolding (.srLoad 0x0E#8) ≠ some .fr ∧
    writesHolding (.srLoad 0x0E#8) ≠ some .mr := ⟨by rfl, by decide, by decide, by decide⟩
theorem witness_HoldingFrame_sr : exec .imAll (loaded 0#8 0#8 0#8) = .next (loaded 0#8 0#8 0x70#8) ∧
    writesHolding .imAll ≠ some .sr ∧ (loaded 0#8 0#8 0#8).isDefined .sr = true := ⟨by rfl, by decide, by decide⟩
theorem witness_QueriesRepeat : writesHolding .srPipe = none ∧ exec .srPipe (loaded 0x06#8 0#8 0#8) =
    .next { loaded 0x06#8 0#8 0#8 with result := 0x000B#16, rkind := 0b011#3 } := ⟨by decide, by rfl⟩
theorem witness_QueriesRepeat_reserved : (loaded 0x0C#8 0#8 0#8).fault = false ∧ (loaded 0x0C#8 0#8 0#8).srDef = true ∧
    (loaded 0x0C#8 0#8 0#8).pipeReserved = true := by decide
theorem witness_UnitsApart : exec .frTxFull (loaded 0#8 0x20#8 0#8) =
      .next { loaded 0#8 0x20#8 0#8 with result := 0x0001#16, rkind := 0b010#3 } ∧
    readsHolding .frTxFull ≠ some .sr ∧ writesHolding .frTxFull ≠ some .sr ∧
    readsHolding .frTxFull ≠ some .mr ∧ writesHolding .frTxFull ≠ some .mr := ⟨by rfl, by decide, by decide, by decide, by decide⟩
theorem witness_UnitsApart_fr : exec .imAll (loaded 0#8 0#8 0#8) = .next (loaded 0#8 0#8 0x70#8) ∧
    readsHolding .imAll ≠ some .fr ∧ writesHolding .imAll ≠ some .fr := ⟨by rfl, by decide, by decide⟩
/-- For the loads and the starts of a mask: SrLoadRule, FrLoadRule, ImStart, ImLoadRule, ImContainsRule, ImBuild, ImSanitize. -/
theorem witness_ready : State.reset.fault = false := by decide
/-- For every QueryRule and BuilderRule where the register is defined, and for MaskLaws. -/
theorem witness_defined : (loaded 0x4B#8 0x33#8 0x50#8).fault = false ∧
    ∀ h ∈ [Holding.sr, .fr, .mr], (loaded 0x4B#8 0x33#8 0x50#8).isDefined h = true := by decide
/-- For every QueryRule and BuilderRule where the register is undefined. -/
theorem witness_undefined : State.reset.fault = false ∧
    ∀ h ∈ [Holding.sr, .fr, .mr], State.reset.isDefined h = false := by decide
/-- SrPipeRule: the pipe field at 0, 5, 6 and 7. -/
theorem witness_SrPipeRule : (loaded 0x00#8 0#8 0#8).fault = false ∧ (loaded 0x00#8 0#8 0#8).srDef = true ∧
    [0x00#8, 0x0A#8, 0x0C#8, 0x0E#8].map (fun b => (loaded b 0#8 0#8).sr.extractLsb' 1 3) =
    [0#3, 5#3, 6#3, 7#3] := by decide
/-- SrReportRule: its four cases at their boundaries, in the states of `witness_defined`. -/
theorem witness_SrReportRule : 128 ≤ (0x80#8).toNat ∧ ((0x7F#8).toNat < 128 ∧ (0x7F#8).toNat / 2 % 8 = 7) ∧
    ((0x7B#8).toNat < 128 ∧ (0x7B#8).toNat / 2 % 8 ≤ 5) ∧ ((0x7C#8).toNat < 128 ∧ (0x7C#8).toNat / 2 % 8 = 6) := by decide
theorem witness_SrAgree : (loaded 0x4B#8 0#8 0#8).fault = false ∧ (loaded 0x4B#8 0#8 0#8).srDef = true ∧
    (loaded 0x4B#8 0#8 0#8).sr.getLsbD 7 = false ∧ (loaded 0x4B#8 0#8 0#8).pipeReserved = false := by decide
theorem witness_ValidityNotRead : Instr.srDr ∈ [Instr.srDr, .srDs, .srRt, .srTxf, .srPipe] ∧
    exec .srDr (loaded 0x40#8 0#8 0#8) =
      .next { loaded 0x40#8 0#8 0#8 with result := 0x0001#16, rkind := 0b010#3 } := ⟨by decide, by rfl⟩
theorem witness_ImRawRule : (loaded 0#8 0#8 0x70#8).fault = false ∧ (loaded 0#8 0#8 0x70#8).mrDef = true ∧
    (loaded 0#8 0#8 0x70#8).mr &&& 0x8F#8 = 0x00#8 := by decide
theorem witness_ImSanitize : 0x70#8 &&& 0x8F#8 = 0x00#8 ∧ State.reset.fault = false := by decide
theorem witness_ImBuild_all : ∀ x : Source, x ∈ [Source.txFailed, .txOk, .dataReady] := by
  intro x; cases x <;> decide

end Sys2Proof.Tests
end

/-!
No unit reads another unit's state (00_scope.md R2, 10_state.md R21): an operation commutes with overwriting a holding register
that it neither reads nor writes.
-/

namespace Sys2Proof.Machine

/-- The state with one holding register and its defined bit overwritten, as no operation could: the defined bit too is free. -/
def State.overwrite (s : State) (h : Holding) (b : Byte) (d : Bool) : State :=
  match h with
  | .sr => { s with sr := b, srDef := d }
  | .fr => { s with fr := b, frDef := d }
  | .mr => { s with mr := b, mrDef := d }

/-- An outcome with that register overwritten in the state it goes on to. -/
def overwriteNext (h : Holding) (b : Byte) (d : Bool) : Out → Out
  | .next t => .next (t.overwrite h b d)
  | .fault r => .fault r
  | .refused r => .refused r

section
variable {s : State} {h : Holding} {b : Byte} {d : Bool} {i : Instr}

/-! What overwriting leaves unchanged. -/

@[simp] theorem State.overwrite_fault : (s.overwrite h b d).fault = s.fault := by cases h <;> rfl

theorem State.overwrite_sr (hne : Holding.sr ≠ h) :
    (s.overwrite h b d).sr = s.sr ∧ (s.overwrite h b d).srDef = s.srDef := by
  cases h with
  | sr => exact absurd rfl hne
  | fr | mr => exact ⟨rfl, rfl⟩

theorem State.overwrite_fr (hne : Holding.fr ≠ h) :
    (s.overwrite h b d).fr = s.fr ∧ (s.overwrite h b d).frDef = s.frDef := by
  cases h with
  | fr => exact absurd rfl hne
  | sr | mr => exact ⟨rfl, rfl⟩

theorem State.overwrite_mr (hne : Holding.mr ≠ h) :
    (s.overwrite h b d).mr = s.mr ∧ (s.overwrite h b d).mrDef = s.mrDef := by
  cases h with
  | mr => exact absurd rfl hne
  | sr | fr => exact ⟨rfl, rfl⟩

/-! The updates of the state commute with overwriting. -/

theorem State.setResult_overwrite (v : Word) (k : Kind) :
    (s.overwrite h b d).setResult v k = (s.setResult v k).overwrite h b d := by cases h <;> rfl

theorem State.takeFault_overwrite (c : FaultCause) (w : Word) :
    (s.overwrite h b d).takeFault c w = (s.takeFault c w).overwrite h b d := by cases h <;> rfl

theorem State.writeSr_overwrite (hne : Holding.sr ≠ h) (x : Byte) :
    (s.overwrite h b d).writeSr x = (s.writeSr x).overwrite h b d := by
  cases h with
  | sr => exact absurd rfl hne
  | fr | mr => rfl

theorem State.writeFr_overwrite (hne : Holding.fr ≠ h) (x : Byte) :
    (s.overwrite h b d).writeFr x = (s.writeFr x).overwrite h b d := by
  cases h with
  | fr => exact absurd rfl hne
  | sr | mr => rfl

theorem State.writeMr_overwrite (hne : Holding.mr ≠ h) (x : Byte) :
    (s.overwrite h b d).writeMr x = (s.writeMr x).overwrite h b d := by
  cases h with
  | mr => exact absurd rfl hne
  | sr | fr => rfl

/-! The shared operations commute with overwriting where what they go on to does. -/

theorem accept_overwrite {k k' : Out} (hk : k' = overwriteNext h b d k) :
    accept (s.overwrite h b d) k' = overwriteNext h b d (accept s k) := by
  cases hf : s.fault <;> simp [accept, hf, hk, overwriteNext]

theorem requireDefined_overwrite {e : Bool} {k k' : Out} (hk : k' = overwriteNext h b d k) :
    requireDefined i e (s.overwrite h b d) k' = overwriteNext h b d (requireDefined i e s k) := by
  cases e with
  | true => exact hk
  | false => exact congrArg Host.Outcome.next (State.takeFault_overwrite _ _)

theorem withSr_overwrite {f g : Byte → Out} (hne : Holding.sr ≠ h) (hk : ∀ x, g x = overwriteNext h b d (f x)) :
    withSr i (s.overwrite h b d) g = overwriteNext h b d (withSr i s f) := by
  obtain ⟨hb, hd⟩ := State.overwrite_sr (s := s) (b := b) (d := d) hne
  simp only [withSr, hb, hd]
  exact accept_overwrite (requireDefined_overwrite (hk _))

theorem withFr_overwrite {f g : Byte → Out} (hne : Holding.fr ≠ h) (hk : ∀ x, g x = overwriteNext h b d (f x)) :
    withFr i (s.overwrite h b d) g = overwriteNext h b d (withFr i s f) := by
  obtain ⟨hb, hd⟩ := State.overwrite_fr (s := s) (b := b) (d := d) hne
  simp only [withFr, hb, hd]
  exact accept_overwrite (requireDefined_overwrite (hk _))

theorem withMr_overwrite {f g : Byte → Out} (hne : Holding.mr ≠ h) (hk : ∀ x, g x = overwriteNext h b d (f x)) :
    withMr i (s.overwrite h b d) g = overwriteNext h b d (withMr i s f) := by
  obtain ⟨hb, hd⟩ := State.overwrite_mr (s := s) (b := b) (d := d) hne
  simp only [withMr, hb, hd]
  exact accept_overwrite (requireDefined_overwrite (hk _))

theorem next_setResult_overwrite (v : Word) (k : Kind) :
    (.next ((s.overwrite h b d).setResult v k) : Out) = overwriteNext h b d (.next (s.setResult v k)) :=
  congrArg Host.Outcome.next (State.setResult_overwrite v k)

theorem orFault_setResult_overwrite {α : Type} (r : Except FaultCause α) (v : α → Word) (k : Kind) :
    orFault i (s.overwrite h b d) r (fun a => (s.overwrite h b d).setResult (v a) k) =
      overwriteNext h b d (orFault i s r fun a => s.setResult (v a) k) := by
  cases r with
  | ok a => exact next_setResult_overwrite (v a) k
  | error c => exact congrArg Host.Outcome.next (State.takeFault_overwrite c _)

/-- A writer's two updates: the register it writes, and no result. -/
theorem next_resultNone_overwrite {w w' : State} (hw : w' = w.overwrite h b d) :
    (.next w'.resultNone : Out) = overwriteNext h b d (.next w.resultNone) := by
  subst hw
  exact next_setResult_overwrite _ _

/-- An operation commutes with overwriting a register it neither reads nor writes. -/
theorem exec_overwrite (hr : readsHolding i ≠ some h) (hw : writesHolding i ≠ some h) :
    exec i (s.overwrite h b d) = overwriteNext h b d (exec i s) := by
  cases i with
  | srLoad x =>
    exact accept_overwrite (next_resultNone_overwrite (State.writeSr_overwrite (mt (congrArg some) hw) x))
  | frLoad x =>
    exact accept_overwrite (next_resultNone_overwrite (State.writeFr_overwrite (mt (congrArg some) hw) x))
  | imEmpty | imAll | imLoad _ =>
    exact accept_overwrite (next_resultNone_overwrite (State.writeMr_overwrite (mt (congrArg some) hw) _))
  | imWithTf | imWithTo | imWithDr =>
    have hne := mt (congrArg some) hr
    simp only [exec, execImWithTf, execImWithTo, execImWithDr]
    exact withMr_overwrite hne fun _ => next_resultNone_overwrite (State.writeMr_overwrite hne _)
  | srPipe | srReport =>
    simp only [exec, execSrPipe, execSrReport]
    exact withSr_overwrite (mt (congrArg some) hr) fun _ => orFault_setResult_overwrite _ _ _
  | srRaw | srValid | srDr | srDs | srRt | srTxf =>
    simp only [exec, execSrRaw, execSrValid, execSrDr, execSrDs, execSrRt, execSrTxf]
    exact withSr_overwrite (mt (congrArg some) hr) fun _ => next_setResult_overwrite _ _
  | frTxFull | frTxEmpty | frRxFull | frRxEmpty =>
    simp only [exec, execFrTxFull, execFrTxEmpty, execFrRxFull, execFrRxEmpty]
    exact withFr_overwrite (mt (congrArg some) hr) fun _ => next_setResult_overwrite _ _
  | imContainsTf | imContainsTo | imContainsDr | imRaw =>
    simp only [exec, execImContainsTf, execImContainsTo, execImContainsDr, execImRaw]
    exact withMr_overwrite (mt (congrArg some) hr) fun _ => next_setResult_overwrite _ _

/-- The same, for an operation that goes on. -/
theorem exec_overwrite_next {t : State} (ht : exec i s = .next t) (hr : readsHolding i ≠ some h)
    (hw : writesHolding i ≠ some h) : exec i (s.overwrite h b d) = .next (t.overwrite h b d) := by
  rw [exec_overwrite hr hw, ht, overwriteNext]

end

/-- Settles O23: `exec_overwrite_next` at each of the three registers. -/
theorem unitsApart : Obligations.UnitsApart := by
  intro i s t b d ht
  exact ⟨exec_overwrite_next (h := .sr) ht, exec_overwrite_next (h := .fr) ht, exec_overwrite_next (h := .mr) ht⟩

end Sys2Proof.Machine

/-!
The decoder gives an operation's own word back (30_encoding.md R58, R63).
-/

namespace Sys2Proof

theorem decodeFields_instrFields (i : Instr) : decodeFields (instrFields i) = .ok i := by cases i <;> rfl

theorem decode_encode (i : Instr) : decode (encode i) = .ok i := by
  rw [decode, encode, fieldsOf_wordOf, decodeFields_instrFields]

end Sys2Proof

/-!
What one step does with the next sample (10_state.md R20, R36; 60_exceptions.md R98, R101).
-/

namespace Sys2Proof.Machine

section
variable {s t : State} {p : PortIn} {rest : List PortIn} {w : Word} {i : Instr}

theorem step_of_fetch_word (h : fetch s = .word w rest) : step s = runWord w (s.withInputs rest) := by
  simp only [step, h]

theorem runWord_of_decode (h : decode w = .ok i) : runWord w s = exec i s := by simp only [runWord, h]

/-- A presented word is taken exactly when no fault has been taken. -/
theorem fetch_presented_iff (hi : s.inputs = p :: rest) (hr : p.rst = false) (hv : p.opValid = true) :
    fetch s = .word p.opWord rest ↔ s.fault = false := by
  simp [fetch_word_iff, hi, hr, hv]

theorem opAccept_presented_iff (hr : p.rst = false) (hv : p.opValid = true) :
    opAccept s p = true ↔ s.fault = false := by
  simp [opAccept, hr, hv]

theorem step_faulted_of_no_reset (hf : s.fault = true) (hi : ∀ p ∈ s.inputs, p.rst = false) :
    step s = .fault .stuck := by
  have hx : fetch s = .stuck := by simp [fetch, hf, afterReset_eq_none_iff.2 hi]
  simp only [step, hx]

end

/-- Settles O7: the fetch takes the word, and running it is its operation's meaning. -/
theorem stepRunsDecoded : Obligations.StepRunsDecoded := by
  intro s p rest i hf hi hr hv hd
  have hx : fetch s = .word p.opWord rest := (fetch_presented_iff hi hr hv).2 hf
  rw [step_of_fetch_word hx, runWord_of_decode hd]
  rfl

/-- Settles O13: both sides of each equivalence say that FAULT is 0. -/
theorem opAcceptRule : Obligations.OpAcceptRule := by
  intro s p rest hi hv hr
  have ha := opAccept_presented_iff (s := s) hr hv
  exact ⟨ha, ha.trans (fetch_presented_iff hi hr hv).symm⟩

end Sys2Proof.Machine

/-!
An operation in a state that is not faulted always goes on, and takes UndefinedRead where it reads an undefined register
(60_exceptions.md R93, R97).
-/

namespace Sys2Proof.Machine

section
variable {s : State} {i : Instr}

theorem accept_goes_on {k : Out} (hf : s.fault = false) (hk : ∃ t, k = .next t) : ∃ t, accept s k = .next t := by
  rwa [accept_ready hf]

theorem requireDefined_undefined {d : Bool} {k : Out} (hd : (!d) = true) :
    requireDefined i d s k = .next (s.takeFault .undefinedRead (encode i)) :=
  requireDefined_next_iff.2 (.inr ⟨by simpa using hd, rfl⟩)

theorem requireDefined_goes_on {d : Bool} {k : Out} (hk : ∃ t, k = .next t) : ∃ t, requireDefined i d s k = .next t := by
  cases d with
  | true => exact hk
  | false => exact ⟨_, rfl⟩

theorem orFault_goes_on {α : Type} (r : Except FaultCause α) (k : α → State) : ∃ t, orFault i s r k = .next t := by
  cases r <;> exact ⟨_, rfl⟩

theorem exec_goes_on (i : Instr) (hf : s.fault = false) : ∃ t, exec i s = .next t := by
  cases i with
  | srLoad | frLoad | imEmpty | imAll | imLoad => exact accept_goes_on hf ⟨_, rfl⟩
  | srPipe | srReport => exact accept_goes_on hf (requireDefined_goes_on (orFault_goes_on _ _))
  | _ => exact accept_goes_on hf (requireDefined_goes_on ⟨_, rfl⟩)

theorem exec_of_readsUndefined (hf : s.fault = false) (h : readsUndefined i s = true) :
    exec i s = .next (s.takeFault .undefinedRead (encode i)) := by
  cases i with
  | srLoad | frLoad | imEmpty | imAll | imLoad => exact absurd h Bool.false_ne_true
  | _ => exact (accept_ready hf).trans (requireDefined_undefined h)

end

theorem reset_isDefined (h : Holding) : State.reset.isDefined h = false := by cases h <;> rfl

theorem reset_readsUndefined {i : Instr} (hi : readsHolding i ≠ none) : readsUndefined i State.reset = true := by
  obtain ⟨h, hh⟩ := Option.ne_none_iff_exists'.1 hi
  simp [readsUndefined, hh, reset_isDefined]

/-- Settles O11: every register a reader reads is undefined at reset. -/
theorem resetValues : Obligations.ResetValues :=
  ⟨⟨rfl, rfl, rfl, rfl, rfl, rfl, rfl, rfl⟩, fun _ hi => exec_of_readsUndefined rfl (reset_readsUndefined hi)⟩

end Sys2Proof.Machine

/-!
The frame of an operation that goes on (10_state.md R15 to R18, R33): each part is read off its effect.
-/

namespace Sys2Proof.Machine

section
variable {i : Instr} {s t : State}

theorem Effect.sr_eq (he : Effect i s t) (hw : writesHolding i ≠ some .sr) : t.sr = s.sr ∧ t.srDef = s.srDef := by
  cases he with
  | wroteSr h => exact absurd h hw
  | _ => exact ⟨rfl, rfl⟩

theorem Effect.fr_eq (he : Effect i s t) (hw : writesHolding i ≠ some .fr) : t.fr = s.fr ∧ t.frDef = s.frDef := by
  cases he with
  | wroteFr h => exact absurd h hw
  | _ => exact ⟨rfl, rfl⟩

theorem Effect.mr_eq (he : Effect i s t) (hw : writesHolding i ≠ some .mr) : t.mr = s.mr ∧ t.mrDef = s.mrDef := by
  cases he with
  | wroteMr _ h => exact absurd h hw
  | _ => exact ⟨rfl, rfl⟩

theorem Effect.keeps_isDefined (he : Effect i s t) {h : Holding} (hd : s.isDefined h = true) :
    t.isDefined h = true := by
  cases he with
  | wroteSr | wroteFr | wroteMr => cases h <;> simp_all [State.isDefined]
  | _ => cases h <;> exact hd

theorem Effect.writer_completes (he : Effect i s t) {h : Holding} (hw : writesHolding i = some h)
    (hf : t.fault = false) : t.isDefined h = true ∧ t.result = 0x0000#16 ∧ t.rkind = 0b000#3 := by
  cases he with
  | undefinedRead | reservedPipe => exact nomatch hf
  | result _ hn => simp [hn] at hw
  | wroteSr hw' | wroteFr hw' | wroteMr _ hw' =>
    obtain rfl := Option.some.inj (hw.symm.trans hw')
    exact ⟨rfl, rfl, rfl⟩

theorem Effect.fault_record_eq (he : Effect i s t) (hf : t.fault = false) : t.fcause = s.fcause ∧ t.fop = s.fop := by
  cases he with
  | undefinedRead | reservedPipe => exact nomatch hf
  | _ => exact ⟨rfl, rfl⟩

theorem Effect.inputs_eq (he : Effect i s t) : t.inputs = s.inputs := by cases he <;> rfl

end

/-- Settles O21: the parts of the frame, each from the operation's effect. -/
theorem holdingFrame : Obligations.HoldingFrame := by
  intro i s t h
  obtain ⟨-, he⟩ := exec_effect h
  exact ⟨he.sr_eq, he.fr_eq, he.mr_eq, fun _ => he.keeps_isDefined, fun _ => he.writer_completes, he.fault_record_eq,
    he.inputs_eq⟩

end Sys2Proof.Machine

/-!
What every step keeps (10_state.md R19, R29, R32): a property that holds at reset, that does not speak of the host's samples, and
that every effect and every illegal word keep.
-/

namespace Sys2Proof.Machine

/-- Only bits 6, 5 and 4 of a defined MR can be 1 (10_state.md R19): `State.Inv.mask`, on its own. -/
def State.MaskWithin (s : State) : Prop := s.mrDef = true → s.mr &&& 0x8F#8 = 0x00#8

section
variable {i : Instr} {s t : State}

/-- The case analysis of a step, for any property it may keep. -/
theorem step_keeps {P : State → Prop} (reset : P State.reset) (inputs : ∀ {s : State} rest, P s → P (s.withInputs rest))
    (effect : ∀ {i : Instr} {s t : State}, s.fault = false → Effect i s t → P s → P t)
    (illegal : ∀ {s : State} {w : Word} {e : Illegality}, decode w = .error e → P s → P (s.takeFault .illegalOp w))
    (hs : P s) (h : step s = .next t) : P t := by
  obtain ⟨-, rfl⟩ | ⟨-, rest, rfl⟩ | ⟨rest, rfl⟩ | ⟨-, p, rest, -, -, -, h⟩ := step_next_cases h
  · exact hs
  · exact inputs rest hs
  · exact inputs rest reset
  · obtain ⟨i, -, h⟩ | ⟨e, hd, rfl⟩ := h
    · obtain ⟨hf, he⟩ := exec_effect h
      exact effect hf he (inputs rest hs)
    · exact illegal hd (inputs rest hs)

/-! The mask -/

theorem reset_maskWithin : State.reset.MaskWithin := nofun

theorem Effect.keeps_mask (he : Effect i s t) (h : s.MaskWithin) : t.MaskWithin := by
  cases he with
  | wroteMr _ _ _ hb => exact fun _ => hb h
  | _ => exact h

/-! The whole invariant -/

theorem inv_of_not_faulted (hf : s.fault = false) (hm : s.MaskWithin) (hr : resultFits s.rkind s.result = true)
    (hq : s.fcause = 0b00#2 ∧ s.fop = 0x0000#16) : s.Inv :=
  ⟨hm, hr, fun _ => hq, fun h => absurd (hf.symm.trans h) Bool.false_ne_true⟩

theorem State.Inv.withInputs (h : s.Inv) (rest : List PortIn) : (s.withInputs rest).Inv :=
  ⟨h.mask, h.result, h.quiet, h.record⟩

/-- The operations whose pipe check applies, by the words FOP then records (60_exceptions.md R91). -/
theorem encode_of_pipeCheckApplies (hc : pipeCheckApplies i s = true) :
    encode i = 0x1800#16 ∨ encode i = 0x2000#16 ∧ s.sr.getLsbD 7 = false := by
  simp only [pipeCheckApplies, Bool.or_eq_true, Bool.and_eq_true, beq_iff_eq, Bool.not_eq_true'] at hc
  obtain rfl | ⟨rfl, h7⟩ := hc
  · exact .inl (by decide)
  · exact .inr ⟨by decide, h7⟩

/-- An operation whose pipe check applies reads SR. -/
theorem srDef_of_pipeCheckApplies (hd : readsUndefined i s = false) (hc : pipeCheckApplies i s = true) :
    s.srDef = true := by
  simp only [pipeCheckApplies, Bool.or_eq_true, Bool.and_eq_true, beq_iff_eq] at hc
  obtain rfl | ⟨rfl, -⟩ := hc <;> simpa [readsUndefined, readsHolding, State.isDefined] using hd

theorem State.Inv.illegalOp {w : Word} {e : Illegality} (h : s.Inv) (hd : decode w = .error e) :
    (s.takeFault .illegalOp w).Inv :=
  ⟨h.mask, h.result, nofun, fun _ => .inr (.inl ⟨rfl, e, hd⟩)⟩

theorem State.Inv.undefinedRead (h : s.Inv) (hu : readsUndefined i s = true) :
    (s.takeFault .undefinedRead (encode i)).Inv :=
  ⟨h.mask, h.result, nofun, fun _ => .inr (.inr ⟨rfl, i, decode_encode i, hu⟩)⟩

theorem State.Inv.reservedPipe (h : s.Inv) (hd : readsUndefined i s = false) (hc : pipeCheckApplies i s = true)
    (hp : s.pipeReserved = true) : (s.takeFault .reservedPipe (encode i)).Inv :=
  ⟨h.mask, h.result, nofun,
    fun _ => .inl ⟨rfl, srDef_of_pipeCheckApplies hd hc, hp, encode_of_pipeCheckApplies hc⟩⟩

theorem Effect.keeps_inv (hf : s.fault = false) (he : Effect i s t) (h : s.Inv) : t.Inv := by
  have hm : t.MaskWithin := he.keeps_mask h.mask
  have hq := h.quiet hf
  cases he with
  | undefinedRead hu => exact h.undefinedRead hu
  | reservedPipe hd hc hp => exact h.reservedPipe hd hc hp
  | result _ _ _ _ hv => exact inv_of_not_faulted hf hm hv hq
  | wroteSr | wroteFr | wroteMr => exact inv_of_not_faulted hf hm none_fits hq

end

/-- Settles O17: reset leaves no fault, an undefined mask and no result. -/
theorem invReset : Obligations.InvReset := inv_of_not_faulted rfl reset_maskWithin none_fits ⟨rfl, rfl⟩

/-- Settles O18: every effect and every illegal word keep the invariant. -/
theorem invStep : Obligations.InvStep := fun _ _ hs h =>
  step_keeps invReset (fun rest hs => hs.withInputs rest) Effect.keeps_inv (fun hd hs => hs.illegalOp hd) hs h

/-- Settles O19: only a writer of MR changes the mask, and it drops the stray bits. -/
theorem maskInvariant : Obligations.MaskInvariant :=
  ⟨reset_maskWithin, fun _ _ hs h =>
    step_keeps (P := State.MaskWithin) reset_maskWithin (fun _ hs => hs) (fun _ => Effect.keeps_mask) (fun _ hs => hs) hs h⟩

end Sys2Proof.Machine

/-!
What an undefined holding register holds is never observed (10_state.md R33, R37): every update and every shared operation keeps
two states alike.
-/

namespace Sys2Proof.Machine

section
variable {s t : State} {i : Instr}

theorem State.Alike.refl (s : State) : s.Alike s := ⟨rfl, rfl, rfl, fun _ => rfl, fun _ => rfl, fun _ => rfl, rfl, rfl⟩

theorem State.Alike.fault (h : s.Alike t) : s.fault = t.fault := congrArg PortOut.fault h.out

/-! The updates of the state -/

theorem State.Alike.setResult (h : s.Alike t) (v : Word) (k : Kind) : (s.setResult v k).Alike (t.setResult v k) :=
  ⟨h.srDef, h.frDef, h.mrDef, h.sr, h.fr, h.mr,
    congrArg (fun o : PortOut => { o with result := v, rkind := kindCode k }) h.out, h.inputs⟩

theorem State.Alike.writeSr (h : s.Alike t) (b : Byte) : (s.writeSr b).Alike (t.writeSr b) :=
  ⟨rfl, h.frDef, h.mrDef, fun _ => rfl, h.fr, h.mr, h.out, h.inputs⟩

theorem State.Alike.writeFr (h : s.Alike t) (b : Byte) : (s.writeFr b).Alike (t.writeFr b) :=
  ⟨h.srDef, rfl, h.mrDef, h.sr, fun _ => rfl, h.mr, h.out, h.inputs⟩

theorem State.Alike.writeMr (h : s.Alike t) (b : Byte) : (s.writeMr b).Alike (t.writeMr b) :=
  ⟨h.srDef, h.frDef, rfl, h.sr, h.fr, fun _ => rfl, h.out, h.inputs⟩

theorem State.Alike.takeFault (h : s.Alike t) (c : FaultCause) (w : Word) : (s.takeFault c w).Alike (t.takeFault c w) :=
  ⟨h.srDef, h.frDef, h.mrDef, h.sr, h.fr, h.mr,
    congrArg (fun o : PortOut => { o with fault := true, fcause := causeCode c, fop := w }) h.out, h.inputs⟩

theorem State.Alike.withInputs (h : s.Alike t) (rest : List PortIn) : (s.withInputs rest).Alike (t.withInputs rest) :=
  ⟨h.srDef, h.frDef, h.mrDef, h.sr, h.fr, h.mr, h.out, rfl⟩

/-! The shared operations -/

theorem accept_alike (h : s.Alike t) {k k' : Out} (hk : outcomesAlike k k') :
    outcomesAlike (accept s k) (accept t k') := by
  cases hf : s.fault with
  | true => rw [accept_faulted hf, accept_faulted (h.fault ▸ hf)]; rfl
  | false => rwa [accept_ready hf, accept_ready (h.fault ▸ hf)]

theorem requireDefined_alike (h : s.Alike t) {d d' : Bool} (hd : d = d') {k k' : Out}
    (hk : d = true → outcomesAlike k k') : outcomesAlike (requireDefined i d s k) (requireDefined i d' t k') := by
  subst hd
  cases d with
  | true => exact hk rfl
  | false => exact h.takeFault _ _

/-- A reader goes on only with a byte that both states have, so the two go on with the same. -/
theorem withSr_alike (h : s.Alike t) {f g : Byte → Out} (hk : ∀ b, outcomesAlike (f b) (g b)) :
    outcomesAlike (withSr i s f) (withSr i t g) :=
  accept_alike h (requireDefined_alike h h.srDef fun hd => h.sr hd ▸ hk s.sr)

theorem withFr_alike (h : s.Alike t) {f g : Byte → Out} (hk : ∀ b, outcomesAlike (f b) (g b)) :
    outcomesAlike (withFr i s f) (withFr i t g) :=
  accept_alike h (requireDefined_alike h h.frDef fun hd => h.fr hd ▸ hk s.fr)

theorem withMr_alike (h : s.Alike t) {f g : Byte → Out} (hk : ∀ b, outcomesAlike (f b) (g b)) :
    outcomesAlike (withMr i s f) (withMr i t g) :=
  accept_alike h (requireDefined_alike h h.mrDef fun hd => h.mr hd ▸ hk s.mr)

theorem orFault_alike (h : s.Alike t) {α : Type} (r : Except FaultCause α) {k k' : α → State}
    (hk : ∀ v, (k v).Alike (k' v)) : outcomesAlike (orFault i s r k) (orFault i t r k') := by
  cases r with
  | ok v => exact hk v
  | error c => exact h.takeFault c _

/-! Operations, words and steps -/

theorem exec_alike (i : Instr) (h : s.Alike t) : outcomesAlike (exec i s) (exec i t) := by
  cases i with
  | srLoad b => exact accept_alike h ((h.writeSr b).setResult _ _)
  | frLoad b => exact accept_alike h ((h.writeFr b).setResult _ _)
  | imEmpty | imAll | imLoad => exact accept_alike h ((h.writeMr _).setResult _ _)
  | srPipe | srReport =>
    simp only [exec, execSrPipe, execSrReport]
    exact withSr_alike h fun _ => orFault_alike h _ fun _ => h.setResult _ _
  | srRaw | srValid | srDr | srDs | srRt | srTxf =>
    simp only [exec, execSrRaw, execSrValid, execSrDr, execSrDs, execSrRt, execSrTxf]
    exact withSr_alike h fun _ => h.setResult _ _
  | frTxFull | frTxEmpty | frRxFull | frRxEmpty =>
    simp only [exec, execFrTxFull, execFrTxEmpty, execFrRxFull, execFrRxEmpty]
    exact withFr_alike h fun _ => h.setResult _ _
  | imWithTf | imWithTo | imWithDr =>
    simp only [exec, execImWithTf, execImWithTo, execImWithDr]
    exact withMr_alike h fun _ => (h.writeMr _).setResult _ _
  | imContainsTf | imContainsTo | imContainsDr | imRaw =>
    simp only [exec, execImContainsTf, execImContainsTo, execImContainsDr, execImRaw]
    exact withMr_alike h fun _ => h.setResult _ _

theorem runWord_alike (w : Word) (h : s.Alike t) : outcomesAlike (runWord w s) (runWord w t) := by
  unfold runWord
  cases decode w with
  | ok i => exact exec_alike i h
  | error e => exact accept_alike h (h.takeFault _ w)

theorem fetch_alike (h : s.Alike t) : fetch s = fetch t := by simp only [fetch, h.fault, h.inputs]

end

/-- Settles O20: alike states take the same from the port, and what they do with it keeps them alike. -/
theorem undefinedHidden : Obligations.UndefinedHidden := by
  intro s t h
  unfold step
  rw [fetch_alike h]
  cases fetch t with
  | waiting => exact h
  | idle rest => exact h.withInputs rest
  | reset rest => exact State.Alike.refl _
  | word w rest => exact runWord_alike w (h.withInputs rest)
  | stuck => rfl

end Sys2Proof.Machine

/-!
Presenting words and running their operations (10_state.md R20, 20_memory.md R45).
-/

namespace Sys2Proof.Machine

section
variable {s t : State} {i : Instr} {n : Nat}

theorem run_succ_next {M : Host.Core} {s t : M.State} (h : M.step s = .next t) : M.run (n + 1) s = M.run n t := by
  rw [Host.Core.run, h]

theorem run_succ_fault {M : Host.Core} {s : M.State} {r : M.Fault} (h : M.step s = .fault r) :
    M.run (n + 1) s = .fault r := by
  rw [Host.Core.run, h]

theorem runAll_cons_next {is : List Instr} (h : exec i s = .next t) : runAll (i :: is) s = runAll is t := by
  rw [runAll, h]

theorem runAll_cons_fault {is : List Instr} {r : Fault} (h : exec i s = .fault r) : runAll (i :: is) s = .fault r := by
  rw [runAll, h]

theorem step_present_cons (ws : List Word) (h : exec i s = .next t) :
    step (s.present (encode i :: ws)) = .next (t.present ws) := by
  obtain ⟨hf, he⟩ := exec_effect h
  have hx : step (s.present (encode i :: ws)) = exec i (s.withInputs (ws.map presentWord ++ s.inputs)) :=
    stepRunsDecoded _ (presentWord (encode i)) _ i hf rfl rfl rfl (decode_encode i)
  rw [hx, exec_withInputs _ h, State.present, he.inputs_eq]

theorem step_present_faulted (hi : s.inputs = []) (ws : List Word) (hf : s.fault = true) :
    step (s.present ws) = .fault .stuck :=
  step_faulted_of_no_reset hf (by simp [State.present, hi, presentWord])

theorem run_present (ops : List Instr) (s : State) (hi : s.inputs = []) :
    Host.Core.run core ops.length (s.present (ops.map encode)) = runAll ops s := by
  induction ops generalizing s with
  | nil => rfl
  | cons i is ih =>
    cases hf : s.fault with
    | true =>
      rw [runAll_cons_fault (exec_of_faulted i hf)]
      exact run_succ_fault (step_present_faulted hi _ hf)
    | false =>
      obtain ⟨t, ht⟩ := exec_goes_on i hf
      have hti : t.inputs = [] := (exec_effect ht).2.inputs_eq.trans hi
      rw [runAll_cons_next ht, ← ih t hti]
      exact run_succ_next (step_present_cons _ ht)

end

/-- Settles O14: `run_present`, by induction over the operations. -/
theorem runPresents : Obligations.RunPresents := fun ops s => run_present ops { s with inputs := [] } rfl

end Sys2Proof.Machine

/-!
A query repeated (20_memory.md R43): one that takes no fault writes only RESULT and RKIND, and no query reads those, so the second
run finds all it reads as the first did.
-/

namespace Sys2Proof.Machine

section
variable {s t : State} {i : Instr} {v : Word} {k : Kind}

theorem State.setResult_setResult (v' : Word) (k' : Kind) : (s.setResult v k).setResult v' k' = s.setResult v' k' := rfl

theorem requireDefined_unfaulted {d : Bool} {o : Out} (ht : t.fault = false) (h : requireDefined i d s o = .next t) :
    d = true ∧ o = .next t := by
  obtain h | ⟨-, rfl⟩ := requireDefined_next_iff.1 h
  · exact h
  · exact nomatch ht

theorem orFault_unfaulted {α : Type} {r : Except FaultCause α} {f : α → State} (ht : t.fault = false)
    (h : orFault i s r f = .next t) : ∃ a, r = .ok a ∧ t = f a := by
  obtain h | ⟨c, -, rfl⟩ := orFault_next_iff.1 h
  · exact h
  · exact nomatch ht

/-- The shape of every reader: it goes on from another RESULT and RKIND as its continuation does. -/
theorem reader_setResult {d : Bool} {o o' : Out} (ht : t.fault = false) (ho : o = .next t → o' = .next t)
    (h : accept s (requireDefined i d s o) = .next t) :
    accept (s.setResult v k) (requireDefined i d (s.setResult v k) o') = .next t := by
  obtain ⟨hf, h⟩ := accept_next_iff.1 h
  obtain ⟨hd, h⟩ := requireDefined_unfaulted ht h
  exact accept_next_iff.2 ⟨hf, requireDefined_next_iff.2 (.inl ⟨hd, ho h⟩)⟩

theorem orFault_setResult {α : Type} {r : Except FaultCause α} {w : α → Word} {q : Kind} (ht : t.fault = false)
    (h : orFault i s r (fun a => s.setResult (w a) q) = .next t) :
    orFault i (s.setResult v k) r (fun a => (s.setResult v k).setResult (w a) q) = .next t := by
  obtain ⟨a, ha, rfl⟩ := orFault_unfaulted ht h
  exact orFault_next_iff.2 (.inl ⟨a, ha, (State.setResult_setResult _ _).symm⟩)

/-- A query that takes no fault goes on to the same state whatever RESULT and RKIND held. -/
theorem exec_setResult (hw : writesHolding i = none) (ht : t.fault = false) (h : exec i s = .next t) :
    exec i (s.setResult v k) = .next t := by
  cases i with
  | srLoad | frLoad | imEmpty | imAll | imWithTf | imWithTo | imWithDr | imLoad => exact nomatch hw
  | srPipe | srReport => exact reader_setResult ht (orFault_setResult ht) h
  | _ => exact reader_setResult ht id h

/-- What a query that takes no fault leaves behind. -/
theorem Effect.eq_setResult (he : Effect i s t) (hw : writesHolding i = none) (ht : t.fault = false) :
    ∃ v k, t = s.setResult v k := by
  cases he with
  | result _ _ v k => exact ⟨v, k, rfl⟩
  | undefinedRead | reservedPipe => exact nomatch ht
  | wroteSr hw' | wroteFr hw' | wroteMr _ hw' => exact nomatch hw.symm.trans hw'

theorem exec_idem (hw : writesHolding i = none) (h : exec i s = .next t) (ht : t.fault = false) : exec i t = .next t := by
  obtain ⟨v, k, rfl⟩ := (exec_effect h).2.eq_setResult hw ht
  exact exec_setResult hw ht h

theorem State.pipeReserved_iff : s.pipeReserved = true ↔ srPipeField s.sr = 0b110#3 := beq_iff_eq

theorem exec_srPipe_reserved (hf : s.fault = false) (hd : s.srDef = true) (hp : s.pipeReserved = true) :
    exec .srPipe s = .next (s.takeFault .reservedPipe (encode .srPipe)) := by
  have hr : pipeDecode s.sr = .error .reservedPipe := (pipeDecode_error_iff s.sr).2 ⟨State.pipeReserved_iff.1 hp, rfl⟩
  rw [exec, execSrPipe, withSr_ready hf hd, hr, orFault]

end

/-- Settles O22: a query's outcome does not depend on the RESULT it writes, and the reserved pipe field decodes to a fault. -/
theorem queriesRepeat : Obligations.QueriesRepeat :=
  ⟨fun _ _ _ => exec_idem, fun _ => exec_srPipe_reserved⟩

end Sys2Proof.Machine

/-!
The decoder inverts the encoder (30_encoding.md R57, R58, R60): the fields it reads are those of the operation it answers, or
they fail one of the seven checks.
-/

namespace Sys2Proof

/-- What a decoder may answer for these fields: the operation that has them, or a reason where they are not well-formed. -/
def OpFields.Answers (f : OpFields) : Except Illegality Instr → Prop
  | .ok i => instrFields i = f
  | .error _ => f.wellFormed = false

section
variable {f : OpFields} {i : Instr}

theorem isSome_ite_some_iff {α : Type} {c : Prop} [Decidable c] {a : α} {r : Option α} :
    (if c then some a else r).isSome = true ↔ c ∨ r.isSome = true := by
  split_ifs with h <;> simp [h]

/-- Not well-formed means one of the seven conditions of R57, whichever comes first. -/
theorem OpFields.wellFormed_eq_false_iff :
    f.wellFormed = false ↔
      f.unit = 0b11#2 ∨ (f.unit = 0b00#2 ∧ 9 ≤ f.fn.toNat) ∨ (f.unit = 0b01#2 ∧ 5 ≤ f.fn.toNat) ∨
        (f.unit = 0b10#2 ∧ 6 ≤ f.fn.toNat) ∨ (f.usesSrc = true ∧ f.src = 0b11#2) ∨
        (¬ f.usesSrc = true ∧ f.src ≠ 0b00#2) ∨ (¬ f.usesImm8 = true ∧ f.imm8 ≠ 0x00#8) := by
  simp [wellFormed, illegality, isSome_ite_some_iff, BitVec.le_def]

theorem OpFields.not_wellFormed_of_src (hs : f.usesSrc = false) (h : f.src ≠ 0b00#2) : f.wellFormed = false := by
  simp [wellFormed_eq_false_iff, hs, h]

theorem OpFields.not_wellFormed_of_imm8 (hb : f.usesImm8 = false) (h : f.imm8 ≠ 0x00#8) : f.wellFormed = false := by
  simp [wellFormed_eq_false_iff, hb, h]

theorem OpFields.not_wellFormed_of_reserved_src (hs : f.usesSrc = true) (h : f.src = 0b11#2) : f.wellFormed = false := by
  simp [wellFormed_eq_false_iff, hs, h]

/-! The three shapes of a row, by what the operation does with SRC and IMM8. -/

theorem decodePlain_answers (hs : f.usesSrc = false) (hb : f.usesImm8 = false)
    (hi : instrFields i = { f with src := 0b00#2, imm8 := 0x00#8 }) : f.Answers (decodePlain f i) := by
  simp only [decodePlain, ne_eq, ite_not]
  split_ifs with hs₀ hb₀
  · rw [OpFields.Answers, hi, ← hs₀, ← hb₀]
  · exact OpFields.not_wellFormed_of_imm8 hb hb₀
  · exact OpFields.not_wellFormed_of_src hs hs₀

theorem decodeLoad_answers {load : Byte → Instr} (hs : f.usesSrc = false)
    (hi : instrFields (load f.imm8) = { f with src := 0b00#2 }) : f.Answers (decodeLoad f load) := by
  simp only [decodeLoad, ne_eq, ite_not]
  split_ifs with hs₀
  · rw [OpFields.Answers, hi, ← hs₀]
  · exact OpFields.not_wellFormed_of_src hs hs₀

theorem decodeBySource_answers {failed ok ready : Instr} (hs : f.usesSrc = true) (hb : f.usesImm8 = false)
    (h₀ : instrFields failed = { f with src := 0b00#2, imm8 := 0x00#8 })
    (h₁ : instrFields ok = { f with src := 0b01#2, imm8 := 0x00#8 })
    (h₂ : instrFields ready = { f with src := 0b10#2, imm8 := 0x00#8 }) :
    f.Answers (decodeBySource f failed ok ready) := by
  simp only [decodeBySource, ne_eq, ite_not]
  split_ifs with hr hb₀ htf hto
  · exact OpFields.not_wellFormed_of_reserved_src hs hr
  · rw [OpFields.Answers, h₀, ← hb₀, ← htf]
  · rw [OpFields.Answers, h₁, ← hb₀, ← hto]
  · have hdr : f.src = 0b10#2 := by grind
    rw [OpFields.Answers, h₂, ← hb₀, ← hdr]
  · exact OpFields.not_wellFormed_of_imm8 hb hb₀

/-! The units, and the whole decoder. -/

theorem eq_ofNat_of_toNat_eq {v k : Nat} {x : BitVec v} (h : x.toNat = k) : x = BitVec.ofNat v k := by
  rw [← h, BitVec.ofNat_toNat, BitVec.setWidth_eq]

theorem decodeSrUnit_answers (hu : f.unit = 0b00#2) : f.Answers (decodeSrUnit f) := by
  obtain ⟨u, n, s, b⟩ := f
  subst hu
  unfold decodeSrUnit
  split <;> rename_i hn
  case h_1 =>
    obtain rfl := eq_ofNat_of_toNat_eq hn
    exact decodeLoad_answers rfl rfl
  case h_10 => exact OpFields.wellFormed_eq_false_iff.2 (.inr (.inl ⟨rfl, by grind⟩))
  all_goals
    obtain rfl := eq_ofNat_of_toNat_eq hn
    exact decodePlain_answers rfl rfl rfl

theorem decodeFrUnit_answers (hu : f.unit = 0b01#2) : f.Answers (decodeFrUnit f) := by
  obtain ⟨u, n, s, b⟩ := f
  subst hu
  unfold decodeFrUnit
  split <;> rename_i hn
  case h_1 =>
    obtain rfl := eq_ofNat_of_toNat_eq hn
    exact decodeLoad_answers rfl rfl
  case h_6 => exact OpFields.wellFormed_eq_false_iff.2 (.inr (.inr (.inl ⟨rfl, by grind⟩)))
  all_goals
    obtain rfl := eq_ofNat_of_toNat_eq hn
    exact decodePlain_answers rfl rfl rfl

theorem decodeImUnit_answers (hu : f.unit = 0b10#2) : f.Answers (decodeImUnit f) := by
  obtain ⟨u, n, s, b⟩ := f
  subst hu
  unfold decodeImUnit
  split <;> rename_i hn
  case h_3 | h_4 =>
    obtain rfl := eq_ofNat_of_toNat_eq hn
    exact decodeBySource_answers rfl rfl rfl rfl rfl
  case h_5 =>
    obtain rfl := eq_ofNat_of_toNat_eq hn
    exact decodeLoad_answers rfl rfl
  case h_7 => exact OpFields.wellFormed_eq_false_iff.2 (.inr (.inr (.inr (.inl ⟨rfl, by grind⟩))))
  all_goals
    obtain rfl := eq_ofNat_of_toNat_eq hn
    exact decodePlain_answers rfl rfl rfl

theorem decodeFields_answers (f : OpFields) : f.Answers (decodeFields f) := by
  unfold decodeFields
  split
  case h_1 hu => exact decodeSrUnit_answers (eq_ofNat_of_toNat_eq hu)
  case h_2 hu => exact decodeFrUnit_answers (eq_ofNat_of_toNat_eq hu)
  case h_3 hu => exact decodeImUnit_answers (eq_ofNat_of_toNat_eq hu)
  case h_4 h₀ h₁ h₂ =>
    have hlt : f.unit.toNat < 4 := f.unit.isLt
    have hu : f.unit.toNat = 3 := by grind
    exact OpFields.wellFormed_eq_false_iff.2 (.inl (eq_ofNat_of_toNat_eq hu))

end

/-! Words. -/

theorem instrFields_of_decode {w : Word} {i : Instr} (h : decode w = .ok i) : instrFields i = fieldsOf w := by
  have ha := decodeFields_answers (fieldsOf w)
  rwa [← decode, h] at ha

/-- A legal word is its operation's one word. -/
theorem decode_eq_ok_iff {w : Word} {i : Instr} : decode w = .ok i ↔ encode i = w := by
  constructor
  · intro h
    rw [encode, instrFields_of_decode h, wordOf_fieldsOf]
  · rintro rfl
    exact decode_encode i

/-- Settles O1: an operation's fields decode to it, and its word has them. -/
theorem decodeEncode : Obligations.DecodeEncode := decode_encode

/-- Settles O2: the decoder answers only operations that have the word's own fields. -/
theorem encodeDecode : Obligations.EncodeDecode := fun _ _ => decode_eq_ok_iff.1

theorem encode_injective : Function.Injective encode := fun i _ h =>
  Except.ok.inj ((decode_encode i).symm.trans (decode_eq_ok_iff.2 h.symm))

theorem instrFields_wellFormed (i : Instr) : (instrFields i).wellFormed = true := by
  cases i with
  | srLoad b => exact Laws.Legal.srLoad b
  | frLoad b => exact Laws.Legal.frLoad b
  | imLoad b => exact Laws.Legal.imLoad b
  | _ => rfl

theorem decode_eq_error_iff {w : Word} : (∃ e, decode w = .error e) ↔ (fieldsOf w).wellFormed = false := by
  constructor
  · rintro ⟨e, h⟩
    have ha := decodeFields_answers (fieldsOf w)
    rwa [← decode, h] at ha
  · intro hf
    cases h : decode w with
    | error e => exact ⟨e, rfl⟩
    | ok i => simp [← instrFields_of_decode h, instrFields_wellFormed] at hf

end Sys2Proof

/-!
The illegal words and the number of the legal ones (30_encoding.md R57).
-/

namespace Sys2Proof

theorem OpFields.usesSrc_iff {f : OpFields} : f.usesSrc = true ↔ f.unit = 0b10#2 ∧ (f.fn = 0x2#4 ∨ f.fn = 0x3#4) := by
  simp [usesSrc]

theorem OpFields.usesImm8_iff {f : OpFields} :
    f.usesImm8 = true ↔
      (f.unit = 0b00#2 ∧ f.fn = 0x0#4) ∨ (f.unit = 0b01#2 ∧ f.fn = 0x0#4) ∨ (f.unit = 0b10#2 ∧ f.fn = 0x4#4) := by
  simp [usesImm8, or_assoc]

/-- Every byte once. -/
def allBytes : List Byte := List.ofFn BitVec.ofFin

theorem mem_allBytes (b : Byte) : b ∈ allBytes := List.mem_ofFn.2 ⟨b.toFin, rfl⟩

theorem allBytes_nodup : allBytes.Nodup := List.nodup_ofFn.2 fun _ _ h => congrArg BitVec.toFin h

theorem allBytes_length : allBytes.length = 256 := by rw [allBytes, List.length_ofFn]

/-- The operations with no byte operand: 8 of unit SR, 4 of FR and 9 of IM. -/
def operandless : List Instr :=
  [.srRaw, .srValid, .srDr, .srDs, .srRt, .srPipe, .srTxf, .srReport, .frTxFull, .frTxEmpty, .frRxFull, .frRxEmpty,
   .imEmpty, .imAll, .imWithTf, .imWithTo, .imWithDr, .imContainsTf, .imContainsTo, .imContainsDr, .imRaw]

/-- Every operation once (30_encoding.md R51 to R53). -/
def allInstrs : List Instr :=
  allBytes.map .srLoad ++ (allBytes.map .frLoad ++ (allBytes.map .imLoad ++ operandless))

theorem mem_allInstrs (i : Instr) : i ∈ allInstrs := by
  cases i <;> simp [allInstrs, operandless, mem_allBytes]

theorem loads_append_nodup {load : Byte → Instr} (hload : Function.Injective load) {l : List Instr} (hl : l.Nodup)
    (h : ∀ b, load b ∉ l) : (allBytes.map load ++ l).Nodup := by
  refine (allBytes_nodup.map hload).append hl fun i hi => ?_
  obtain ⟨b, -, rfl⟩ := List.mem_map.1 hi
  exact h b

theorem allInstrs_nodup : allInstrs.Nodup := by
  refine loads_append_nodup (fun _ _ => Instr.srLoad.inj) ?_ (by simp [operandless])
  refine loads_append_nodup (fun _ _ => Instr.frLoad.inj) ?_ (by simp [operandless])
  exact loads_append_nodup (fun _ _ => Instr.imLoad.inj) (by decide) (by simp [operandless])

theorem allInstrs_length : allInstrs.length = 789 := by
  simp [allInstrs, allBytes_length, operandless]

end Sys2Proof

namespace Sys2Proof.Machine

theorem step_of_illegal {w : Word} {s : State} {rest : List PortIn} (hw : ∃ e, decode w = .error e) (hf : s.fault = false)
    (hi : s.inputs = presentWord w :: rest) : step s = .next ((s.withInputs rest).takeFault .illegalOp w) := by
  obtain ⟨e, he⟩ := hw
  rw [step_of_fetch_word ((fetch_presented_iff hi rfl rfl).2 hf)]
  simp only [presentWord, runWord, he]
  exact accept_ready hf

/-- Settles O3: the decoder refuses the fields that are not well-formed, and the legal words are those of `allInstrs`. -/
theorem legalWords : Obligations.LegalWords := by
  refine ⟨fun w => ?_, fun w s rest => step_of_illegal, allInstrs.map encode, ?_, ?_, fun w => ?_⟩
  · rw [decode_eq_error_iff, OpFields.wellFormed_eq_false_iff, OpFields.usesSrc_iff, OpFields.usesImm8_iff]
    rfl
  · exact allInstrs_nodup.map encode_injective
  · rw [List.length_map, allInstrs_length]
  · simp [decode_eq_ok_iff, mem_allInstrs]

/-- Settles O5: five words, decoded. -/
theorem sampleWords : Obligations.SampleWords := by
  unfold Obligations.SampleWords
  decide

end Sys2Proof.Machine

/-!
The opcode map (30_encoding.md R63): each row's words are its operation's, and any two rows disagree on a bit that both fix.
-/

namespace Sys2Proof

theorem fieldsOf_and_high (w : Word) : fieldsOf (w &&& 0xFF00#16) = { fieldsOf w with imm8 := 0x00#8 } := by
  simp only [fieldsOf, BitVec.extractLsb'_and, OpFields.mk.injEq]
  exact ⟨BitVec.and_allOnes, BitVec.and_allOnes, BitVec.and_allOnes, BitVec.and_zero⟩

/-- Clearing IMM8 in a load's word gives the word of the load of zero. -/
theorem encode_and_high {i j : Instr} (h : instrFields j = { instrFields i with imm8 := 0x00#8 }) :
    encode i &&& 0xFF00#16 = encode j := by
  apply fieldsOf_injective
  rw [fieldsOf_and_high, encode, encode, fieldsOf_wordOf, fieldsOf_wordOf, h]

end Sys2Proof

namespace Sys2Proof.Machine

/-- A word that matches the row is the word of the row's operation. -/
def OpcodeRow.Fits (r : OpcodeRow) : Prop := ∀ w : Word, w &&& r.mask = r.value → encode (r.op (w.extractLsb' 0 8)) = w

/-- A row that fixes the whole word. -/
theorem OpcodeRow.fits_full_mask_iff {v : Word} {i : Instr} : Fits ⟨0xFFFF#16, v, fun _ => i⟩ ↔ encode i = v :=
  ⟨fun h => h v BitVec.and_allOnes, fun h _ hw => h.trans (hw.symm.trans BitVec.and_allOnes)⟩

/-- A row that leaves IMM8 to the operation. -/
theorem OpcodeRow.fits_of_high_mask {v : Word} {load : Byte → Instr}
    (h : ∀ b, instrFields (load b) = { fieldsOf v with imm8 := b }) : Fits ⟨0xFF00#16, v, load⟩ := by
  rintro w (rfl : w &&& 0xFF00#16 = v)
  rw [encode, h, fieldsOf_and_high]
  exact wordOf_fieldsOf w

theorem opcodeMap_fits : ∀ r ∈ opcodeMap, r.Fits := by
  have hs : OpcodeRow.Fits ⟨0xFF00#16, 0x0000#16, .srLoad⟩ := OpcodeRow.fits_of_high_mask fun _ => rfl
  have hf : OpcodeRow.Fits ⟨0xFF00#16, 0x4000#16, .frLoad⟩ := OpcodeRow.fits_of_high_mask fun _ => rfl
  have hm : OpcodeRow.Fits ⟨0xFF00#16, 0x9000#16, .imLoad⟩ := OpcodeRow.fits_of_high_mask fun _ => rfl
  simp only [opcodeMap, List.cons_append, List.nil_append, List.mem_cons, List.not_mem_nil, or_false, forall_eq_or_imp,
    forall_eq, hs, hf, hm, OpcodeRow.fits_full_mask_iff]
  decide

/-- Every operation's word matches a row: the loads' rows by their high bytes. -/
theorem exists_row_of_encode (i : Instr) : ∃ r ∈ opcodeMap, encode i &&& r.mask = r.value := by
  cases i with
  | srLoad b => exact ⟨opcodeMap[0], List.getElem_mem _, (encode_and_high (j := .srLoad 0x00#8) rfl).trans (by decide)⟩
  | frLoad b => exact ⟨opcodeMap[9], List.getElem_mem _, (encode_and_high (j := .frLoad 0x00#8) rfl).trans (by decide)⟩
  | imLoad b => exact ⟨opcodeMap[22], List.getElem_mem _, (encode_and_high (j := .imLoad 0x00#8) rfl).trans (by decide)⟩
  | _ => decide

/-- Any two rows disagree on a bit that both fix. -/
theorem opcodeMap_pairwise : opcodeMap.Pairwise fun r q => r.value &&& q.mask ≠ q.value &&& r.mask := by decide

/-- A word that matches both rows makes them agree on every bit that both fix. -/
theorem and_mask_eq_of_matches {w m v n u : Word} (hv : w &&& m = v) (hu : w &&& n = u) : v &&& n = u &&& m := by
  rw [← hv, ← hu, BitVec.and_assoc, BitVec.and_assoc, BitVec.and_comm m]

/-- Settles O4: what `opcodeMap_fits` and `opcodeMap_pairwise` say of the rows, and that every operation has
a row. (The map itself has the obligation's name.) -/
theorem opcodeMap_decides : Obligations.OpcodeMap := by
  refine ⟨fun r hr w hw => decode_eq_ok_iff.2 (opcodeMap_fits r hr w hw), ?_, fun w hw => ?_⟩
  · exact opcodeMap_pairwise.imp fun hne w hw => hne (and_mask_eq_of_matches hw.1 hw.2)
  · cases hd : decode w with
    | error e => exact ⟨e, rfl⟩
    | ok i =>
      obtain ⟨r, hr, hm⟩ := exists_row_of_encode i
      rw [decode_eq_ok_iff.1 hd] at hm
      exact absurd hm (hw r hr)

end Sys2Proof.Machine

/-!
The assembler reads back the text it writes (30_encoding.md R61).
-/

namespace Sys2Proof.Machine

/-- A character that neither ends a token nor is one. -/
def isTokenChar (c : Char) : Bool := c != ';' && c != ',' && c != ' ' && c != '\t'

theorem tokensFrom_cons {c : Char} (hc : isTokenChar c = true) (cur t : List Char) :
    tokensFrom cur (c :: t) = tokensFrom (cur ++ [c]) t := by
  simp only [isTokenChar, Bool.and_eq_true, bne_iff_ne] at hc
  simp [tokensFrom, hc]

theorem tokensFrom_append {m : List Char} (hm : ∀ c ∈ m, isTokenChar c = true) (cur t : List Char) :
    tokensFrom cur (m ++ t) = tokensFrom (cur ++ m) t := by
  induction m generalizing cur with
  | nil => simp
  | cons c m ih =>
    obtain ⟨hc, hm⟩ := List.forall_mem_cons.1 hm
    rw [List.cons_append, tokensFrom_cons hc, ih hm, List.append_assoc, List.singleton_append]

/-- A mnemonic, a space and an operand are two tokens. -/
theorem tokensFrom_two {m a : List Char} (hm : ∀ c ∈ m, isTokenChar c = true) (ha : ∀ c ∈ a, isTokenChar c = true) :
    tokensFrom [] (m ++ ' ' :: a) = flushToken m ++ flushToken a := by
  have he : tokensFrom [] a = flushToken a := by simpa [tokensFrom] using tokensFrom_append ha [] []
  rw [tokensFrom_append hm, List.nil_append, ← he]
  rfl

theorem isTokenChar_hexDigit : ∀ n < 16, isTokenChar (hexDigit n) = true := by decide

theorem digitValue_hexDigit : ∀ n < 16, digitValue 16 (hexDigit n) = some n := by decide

theorem byte_div_lt (b : Byte) : b.toNat / 16 < 16 := Nat.div_lt_of_lt_mul b.isLt

theorem byte_mod_lt (b : Byte) : b.toNat % 16 < 16 := Nat.mod_lt _ (by decide)

theorem isTokenChar_byteText (b : Byte) : ∀ c ∈ byteText b, isTokenChar c = true := by
  simp only [byteText, List.forall_mem_cons]
  exact ⟨rfl, rfl, isTokenChar_hexDigit _ (byte_div_lt b), isTokenChar_hexDigit _ (byte_mod_lt b), nofun⟩

theorem numberFrom_hexDigits (b : Byte) :
    numberFrom 16 0 [hexDigit (b.toNat / 16), hexDigit (b.toNat % 16)] = some b.toNat := by
  simp only [numberFrom, digitValue_hexDigit _ (byte_div_lt b), digitValue_hexDigit _ (byte_mod_lt b), Option.some.injEq]
  omega

theorem byteOperand_hex {h l : Char} {v : Nat} (hv : numberFrom 16 0 [h, l] = some v) (hlt : v < 256) :
    byteOperand ['0', 'x', h, l] = some (BitVec.ofNat 8 v) := by
  have he : byteOperand ['0', 'x', h, l] =
      match numberFrom 16 0 [h, l] with
      | some v => if v < 256 then some (BitVec.ofNat 8 v) else none
      | none => none := by rfl
  rw [he, hv]
  exact if_pos hlt

theorem byteOperand_byteText (b : Byte) : byteOperand (byteText b) = some b := by
  rw [byteText, byteOperand_hex (numberFrom_hexDigits b) b.isLt, BitVec.ofNat_toNat, BitVec.setWidth_eq]

theorem parseTokens_byte {m a : List Char} (hb : m ≠ "IM_BUILD".toList) (hc : m ≠ "IM_CONTAINS".toList) :
    parseTokens [m, a] = (byteOperand a).bind (byteMnemonic m) := by
  rw [parseTokens, if_neg hb]
  simp only [if_neg hc]
  cases byteOperand a <;> rfl

theorem assembleLine_load {m : List Char} {b : Byte} {i : Instr} (ht : m.all isTokenChar = true) (hn : m ≠ [])
    (hb : m ≠ "IM_BUILD".toList) (hc : m ≠ "IM_CONTAINS".toList) (hm : byteMnemonic m b = some (.op i)) :
    assembleLine (m ++ ' ' :: byteText b) = some [encode i] := by
  have hp : parseLine (m ++ ' ' :: byteText b) = some (.op i) := by
    rw [parseLine, tokensFrom_two (List.all_eq_true.1 ht) (isTokenChar_byteText b), flushToken, if_neg hn]
    exact (parseTokens_byte hb hc).trans (by rw [byteOperand_byteText, Option.bind_some, hm])
  rw [assembleLine, hp]

/-- Settles O6: a load's text is its mnemonic, a space and its byte; any other text is fixed. -/
theorem assemblerText : Obligations.AssemblerText := by
  intro i
  cases i with
  | srLoad b =>
    exact assembleLine_load (m := "SR_LOAD".toList) (by decide) (by decide) (by decide) (by decide) rfl
  | frLoad b =>
    exact assembleLine_load (m := "FR_LOAD".toList) (by decide) (by decide) (by decide) (by decide) rfl
  | imLoad b =>
    exact assembleLine_load (m := "IM_LOAD".toList) (by decide) (by decide) (by decide) (by decide) rfl
  | _ => decide

end Sys2Proof.Machine

/-!
Queries and loads of any unit: the rule of a query of one holding register (60_exceptions.md R93, R95), and the word of a load
(30_encoding.md R49, R63).
-/

namespace Sys2Proof

theorem fieldsOf_or_byte {v : Word} (hv : (fieldsOf v).imm8 = 0x00#8) (b : Byte) :
    fieldsOf (v ||| b.setWidth 16) = { fieldsOf v with imm8 := b } := by
  have hlow : BitVec.extractLsb' 0 8 v = 0x00#8 := hv
  have hhigh : ∀ start len, 8 ≤ start → (b.setWidth 16).extractLsb' start len = 0#len := fun start len h => by
    apply BitVec.eq_of_getLsbD_eq
    intro j _
    have hb : b.getLsbD (start + j) = false := BitVec.getLsbD_of_ge b _ (by omega)
    simp [hb]
  simp [fieldsOf, BitVec.extractLsb'_or, hlow, hhigh, BitVec.extractLsb'_setWidth_of_le]

/-- A load's word is the word of its unit and function with the byte in IMM8. -/
theorem decode_load {v : Word} {b : Byte} {i : Instr} (hv : (fieldsOf v).imm8 = 0x00#8)
    (hi : instrFields i = { fieldsOf v with imm8 := b }) : decode (v ||| b.setWidth 16) = .ok i := by
  refine decode_eq_ok_iff.2 (fieldsOf_injective ?_)
  rw [encode, fieldsOf_wordOf, hi, fieldsOf_or_byte hv]

end Sys2Proof

namespace Sys2Proof.Machine

theorem boolWord_eq (f : Bool) : boolWord f = (BitVec.ofBool f).setWidth 16 := by cases f <;> decide

/-- An operation that requires its register to be defined and then writes RESULT and RKIND has the rule of a query. -/
theorem queryRule_of_exec {i : Instr} {w : Word} {h : Holding} {k : Kind} {v : State → Word} (hw : decode w = .ok i)
    (hx : ∀ s, exec i s = accept s (requireDefined i (s.isDefined h) s (.next (s.setResult (v s) k)))) :
    QueryRule i w h (kindCode k) v := by
  refine ⟨hw, fun s hf hd => ?_, fun s hf hd => ?_⟩
  · rw [hx, accept_ready hf]
    exact requireDefined_next_iff.2 (.inl ⟨hd, rfl⟩)
  · rw [hx, accept_ready hf, ← decode_eq_ok_iff.1 hw]
    exact requireDefined_next_iff.2 (.inr ⟨hd, rfl⟩)

/-- The same for a query that answers a truth value. -/
theorem boolQueryRule_of_exec {i : Instr} {w : Word} {h : Holding} {f : State → Bool} (hw : decode w = .ok i)
    (hx : ∀ s, exec i s = accept s (requireDefined i (s.isDefined h) s (.next (s.resultBool (f s))))) :
    QueryRule i w h 0b010#3 fun s => boolWord (f s) := by
  simp only [boolWord_eq]
  exact queryRule_of_exec (k := .bool) hw hx

end Sys2Proof.Machine

/-!
The fields of the status byte (40_status_register.md R70, R72): as numbers, and as the decoded pipe and report.
-/

namespace Sys2Proof.Machine

section
variable {b : Byte}

theorem srInvalid_eq (b : Byte) : srInvalid b = decide (128 ≤ b.toNat) := BitVec.msb_eq_decide b

theorem srIsValid_eq (b : Byte) : srIsValid b = decide (b.toNat < 128) := by
  rw [srIsValid, srInvalid_eq, ← decide_not, decide_eq_decide, not_le]

theorem srPipeField_toNat (b : Byte) : (srPipeField b).toNat = b.toNat / 2 % 8 := by
  rw [srPipeField, BitVec.extractLsb'_toNat, Nat.shiftRight_eq_div_pow]

theorem srPipeField_eq_iff {f : BitVec 3} : srPipeField b = f ↔ b.toNat / 2 % 8 = f.toNat := by
  rw [← srPipeField_toNat, BitVec.toNat_inj]

/-! The pipe -/

theorem pipeDecode_of_index {p : DataPipeIndex} (h : (srPipeField b).toNat = p.val) : pipeDecode b = .ok (some p) := by
  simp [pipeDecode, h]

theorem pipeDecode_of_seven (h : srPipeField b = 0b111#3) : pipeDecode b = .ok none := by
  simp [pipeDecode, h, Config.pipeCount]

theorem pipeDecode_ok_of_not_reserved {s : State} (h : s.pipeReserved = false) : ∃ p, pipeDecode s.sr = .ok p := by
  cases hp : pipeDecode s.sr with
  | ok p => exact ⟨p, rfl⟩
  | error c =>
    obtain ⟨h6, -⟩ := (pipeDecode_error_iff s.sr).1 hp
    exact absurd (State.pipeReserved_iff.2 h6) (by simp [h])

theorem pipeBits_some_toNat (p : DataPipeIndex) : (pipeBits (some p)).toNat = 8 + p.val := by revert p; decide

/-! The report -/

theorem srReport_of_invalid (h : srInvalid b = true) : srReport b = .ok none := by rw [srReport, if_pos h]

/-- The report of a valid byte with this pipe. -/
def validReport (b : Byte) (p : Option DataPipeIndex) : StatusReport :=
  ⟨srDataReady b, srDataSent b, srRetriesExhausted b, p, srTxFull b⟩

theorem srReport_of_valid {p : Option DataPipeIndex} (h : srInvalid b = false) (hp : pipeDecode b = .ok p) :
    srReport b = .ok (some (validReport b p)) := by
  simp [srReport, h, hp, validReport]

theorem srReport_of_reserved (h : srInvalid b = false) (h6 : srPipeField b = 0b110#3) :
    srReport b = .error .reservedPipe :=
  (srReport_error_iff b).2 ⟨h, h6, rfl⟩

/-- The nine bits of a report as a number: five fields side by side. -/
theorem reportBits_toNat (r : StatusReport) :
    (reportBits (some r)).toNat =
      256 + 128 * r.dataReady.toNat + 64 * r.dataSent.toNat + 32 * r.retriesExhausted.toNat +
        2 * (pipeBits r.pipe).toNat + r.txFull.toNat := by
  obtain ⟨dr, ds, rt, _ | p, tx⟩ := r
  · revert dr ds rt tx; decide
  · revert dr ds rt p tx; decide

theorem validReport_toNat (hv : b.toNat < 128) (p : Option DataPipeIndex) :
    (reportBits (some (validReport b p))).toNat =
      256 + b.toNat / 16 * 32 + 2 * (pipeBits p).toNat + b.toNat % 2 := by
  have h6 : (srDataReady b).toNat = b.toNat / 64 % 2 := Nat.toNat_testBit b.toNat 6
  have h5 : (srDataSent b).toNat = b.toNat / 32 % 2 := Nat.toNat_testBit b.toNat 5
  have h4 : (srRetriesExhausted b).toNat = b.toNat / 16 % 2 := Nat.toNat_testBit b.toNat 4
  have h0 : (srTxFull b).toNat = b.toNat / 1 % 2 := Nat.toNat_testBit b.toNat 0
  simp only [reportBits_toNat, validReport, h6, h5, h4, h0]
  omega

/-! What RESULT then holds (10_state.md R29) -/

theorem pipeWord_some {f : BitVec 3} {p : DataPipeIndex} (h : f.toNat = p.val) :
    (pipeBits (some p)).setWidth 16 = 0x0008#16 + f.setWidth 16 := by
  apply BitVec.eq_of_toNat_eq
  simp [pipeBits_some_toNat, ← h]

theorem reportWord_some (hv : b.toNat < 128) (p : DataPipeIndex) :
    (reportBits (some (validReport b (some p)))).setWidth 16 =
      BitVec.ofNat 16 (256 + b.toNat / 16 * 32 + (16 + p.val * 2) + b.toNat % 2) := by
  rw [← BitVec.ofNat_toNat, validReport_toNat hv, pipeBits_some_toNat, Nat.mul_add, Nat.mul_comm 2 p.val]

theorem reportWord_none (hv : b.toNat < 128) :
    (reportBits (some (validReport b none))).setWidth 16 =
      BitVec.ofNat 16 (256 + b.toNat / 16 * 32 + b.toNat % 2) := by
  rw [← BitVec.ofNat_toNat, validReport_toNat hv]
  rfl

theorem pipeWord_fields (p : Option DataPipeIndex) : ((pipeBits p).setWidth 16).extractLsb' 0 4 = pipeBits p := by
  simp [BitVec.extractLsb'_setWidth_of_le]

/-- The fields of the report's word, as the single queries answer them. -/
theorem reportWord_fields (r : StatusReport) :
    ((reportBits (some r)).setWidth 16).getLsbD 7 = r.dataReady ∧
    ((reportBits (some r)).setWidth 16).getLsbD 6 = r.dataSent ∧
    ((reportBits (some r)).setWidth 16).getLsbD 5 = r.retriesExhausted ∧
    ((reportBits (some r)).setWidth 16).getLsbD 0 = r.txFull ∧
    ((reportBits (some r)).setWidth 16).extractLsb' 1 4 = pipeBits r.pipe := by
  obtain ⟨dr, ds, rt, _ | p, tx⟩ := r
  · revert dr ds rt tx; decide
  · revert dr ds rt p tx; decide

end

end Sys2Proof.Machine

/-!
The operations of unit SR (40_status_register.md R64 to R73, R75).
-/

namespace Sys2Proof.Machine

section
variable {s : State}

theorem exec_srLoad (b : Byte) (hf : s.fault = false) : exec (.srLoad b) s = .next (s.writeSr b).resultNone := accept_ready hf

theorem exec_srReport (hf : s.fault = false) (hd : s.srDef = true) :
    exec .srReport s = orFault .srReport s (srReport s.sr) s.resultReport := by
  rw [exec, execSrReport, withSr_ready hf hd]

theorem exec_srPipe_ok {p : Option DataPipeIndex} (hf : s.fault = false) (hd : s.srDef = true)
    (hp : pipeDecode s.sr = .ok p) : exec .srPipe s = .next (s.resultPipe p) := by
  rw [exec, execSrPipe, withSr_ready hf hd, hp, orFault]

theorem exec_srReport_valid {p : Option DataPipeIndex} (hf : s.fault = false) (hd : s.srDef = true)
    (hv : srInvalid s.sr = false) (hp : pipeDecode s.sr = .ok p) :
    exec .srReport s = .next (s.resultReport (some (validReport s.sr p))) := by
  rw [exec_srReport hf hd, srReport_of_valid hv hp, orFault]

end

/-- Settles O24: a load accepts every byte. -/
theorem srLoadRule : Obligations.SrLoadRule := fun b =>
  ⟨decode_load rfl rfl, fun _ hf => exec_srLoad b hf⟩

theorem srRaw_queryRule : QueryRule .srRaw 0x0400#16 .sr 0b001#3 fun s => s.sr.setWidth 16 :=
  queryRule_of_exec (k := .byte) rfl fun _ => rfl

/-- Settles O25: the query's rule, and a load followed by it. -/
theorem srRawRule : Obligations.SrRawRule := by
  refine ⟨srRaw_queryRule, fun b s hf => ?_⟩
  obtain ⟨-, hraw, -⟩ := srRaw_queryRule
  exact (runAll_cons_next (exec_srLoad b hf)).trans (runAll_cons_next (hraw _ hf rfl))

/-- Settles O26: bit 7 is set from 0x80 on. -/
theorem srValidRule : Obligations.SrValidRule := by
  unfold Obligations.SrValidRule
  simp only [← srIsValid_eq]
  exact boolQueryRule_of_exec rfl fun _ => rfl

/-- Settles O27: each query answers its own bit. -/
theorem srBitQueries : Obligations.SrBitQueries :=
  ⟨boolQueryRule_of_exec rfl fun _ => rfl, boolQueryRule_of_exec rfl fun _ => rfl,
    boolQueryRule_of_exec rfl fun _ => rfl, boolQueryRule_of_exec rfl fun _ => rfl⟩

/-- Settles O28: the cases of the pipe field. -/
theorem srPipeRule : Obligations.SrPipeRule := by
  refine ⟨rfl, fun s hf => ⟨fun hd => exec_of_readsUndefined hf (congrArg not hd), ?_⟩⟩
  rintro hd f (hfield : srPipeField s.sr = f)
  refine ⟨fun h5 => ?_, fun h7 => ?_, fun h6 => ?_⟩
  · have hp := pipeDecode_of_index (p := ⟨f.toNat, Nat.lt_succ_of_le h5⟩) (congrArg _ hfield)
    rw [exec_srPipe_ok hf hd hp, State.resultPipe_eq, pipeWord_some rfl]
    rfl
  · exact exec_srPipe_ok hf hd (pipeDecode_of_seven (hfield.trans h7))
  · exact exec_srPipe_reserved hf hd (State.pipeReserved_iff.2 (hfield.trans h6))

/-- Settles O29: bit 7 first, then the cases of the pipe field. -/
theorem srReportRule : Obligations.SrReportRule := by
  refine ⟨rfl, fun s hf => ⟨fun hd => exec_of_readsUndefined hf (congrArg not hd), ?_⟩⟩
  rintro hd b rfl
  have hvalid (hv : s.sr.toNat < 128) : srInvalid s.sr = false := by simpa [srInvalid_eq] using hv
  refine ⟨fun hi => ?_, fun hv h5 => ?_, fun hv h7 => ?_, fun hv h6 => ?_⟩
  · rw [exec_srReport hf hd, srReport_of_invalid (by simpa [srInvalid_eq] using hi)]
    rfl
  · have hp := pipeDecode_of_index (p := ⟨s.sr.toNat / 2 % 8, Nat.lt_succ_of_le h5⟩) (srPipeField_toNat s.sr)
    rw [exec_srReport_valid hf hd (hvalid hv) hp, State.resultReport_eq, reportWord_some hv]
    rfl
  · have hp := pipeDecode_of_seven (srPipeField_eq_iff.2 h7)
    rw [exec_srReport_valid hf hd (hvalid hv) hp, State.resultReport_eq, reportWord_none hv]
    rfl
  · rw [exec_srReport hf hd, srReport_of_reserved (hvalid hv) (srPipeField_eq_iff.2 h6)]
    rfl

/-- Settles O30: the report's fields are the bits and the pipe that the single queries answer. -/
theorem srAgree : Obligations.SrAgree := by
  intro s hf hd hv hres
  obtain ⟨p, hp⟩ := pipeDecode_ok_of_not_reserved hres
  obtain ⟨⟨-, hdr, -⟩, ⟨-, hds, -⟩, ⟨-, hrt, -⟩, ⟨-, htx, -⟩⟩ := srBitQueries
  obtain ⟨-, hraw, -⟩ := srRaw_queryRule
  obtain ⟨h7, h6, h5, h0, hpp⟩ := reportWord_fields (validReport s.sr p)
  exact ⟨_, _, _, _, _, _, _, exec_srReport_valid hf hd hv hp, hdr s hf hd, hds s hf hd, hrt s hf hd, htx s hf hd,
    exec_srPipe_ok hf hd hp, hraw s hf hd, congrArg boolWord h7.symm, congrArg boolWord h6.symm, congrArg boolWord h5.symm,
    congrArg boolWord h0.symm, (pipeWord_fields p).trans hpp.symm, rfl⟩

end Sys2Proof.Machine

/-!
Validity is not checked by the accessors (40_status_register.md R74): each reads bits below bit 7 only.
-/

namespace Sys2Proof.Machine

section
variable {s : State} {i : Instr} {b : Byte}

/-- A reader of SR commutes with overwriting SR where it reads the same in both bytes. -/
theorem withSr_overwrite_sr {f g : Byte → Out} (hk : g b = overwriteNext .sr b s.srDef (f s.sr)) :
    withSr i (s.overwrite .sr b s.srDef) g = overwriteNext .sr b s.srDef (withSr i s f) :=
  accept_overwrite (requireDefined_overwrite hk)

theorem withSr_resultBool_overwrite_sr {flag : Byte → Bool} (hb : flag b = flag s.sr) :
    withSr i (s.overwrite .sr b s.srDef) (fun x => .next ((s.overwrite .sr b s.srDef).resultBool (flag x))) =
      overwriteNext .sr b s.srDef (withSr i s fun x => .next (s.resultBool (flag x))) := by
  refine withSr_overwrite_sr ?_
  rw [hb]
  exact next_setResult_overwrite _ _

theorem srPipeField_flip (b : Byte) : srPipeField (b ^^^ 0x80#8) = srPipeField b := by
  rw [srPipeField, BitVec.extractLsb'_xor]
  exact BitVec.xor_zero

theorem pipeDecode_congr {b c : Byte} (h : srPipeField b = srPipeField c) : pipeDecode b = pipeDecode c := by
  simp only [pipeDecode, h]

/-- With bit 7 of SR flipped, an accessor does the same. -/
theorem exec_flip (hi : i ∈ [Instr.srDr, .srDs, .srRt, .srTxf, .srPipe]) :
    exec i (s.overwrite .sr (s.sr ^^^ 0x80#8) s.srDef) = overwriteNext .sr (s.sr ^^^ 0x80#8) s.srDef (exec i s) := by
  simp only [List.mem_cons, List.not_mem_nil, or_false] at hi
  obtain rfl | rfl | rfl | rfl | rfl := hi
  · exact withSr_resultBool_overwrite_sr (by simp [srDataReady])
  · exact withSr_resultBool_overwrite_sr (by simp [srDataSent])
  · exact withSr_resultBool_overwrite_sr (by simp [srRetriesExhausted])
  · exact withSr_resultBool_overwrite_sr (by simp [srTxFull])
  · rw [exec, exec, execSrPipe, execSrPipe]
    refine withSr_overwrite_sr ?_
    rw [pipeDecode_congr (srPipeField_flip s.sr)]
    exact orFault_setResult_overwrite _ _ _

theorem writesHolding_of_accessor (hi : i ∈ [Instr.srDr, .srDs, .srRt, .srTxf, .srPipe]) : writesHolding i = none := by
  revert i; decide

end

/-- Settles O31: the accessors commute with flipping bit 7, and none writes SR_DEF. -/
theorem validityNotRead : Obligations.ValidityNotRead := by
  intro i hi s t h
  obtain ⟨-, hdef⟩ := (exec_effect h).2.sr_eq (by simp [writesHolding_of_accessor hi])
  have hx := exec_flip (s := s) hi
  rw [h, ← hdef] at hx
  exact hdef ▸ hx

end Sys2Proof.Machine

/-!
The operations of unit FR (41_fifo_status.md R76 to R80): no byte is refused, and no query looks at another's bit.
-/

namespace Sys2Proof.Machine

theorem exec_frLoad (b : Byte) {s : State} (hf : s.fault = false) :
    exec (.frLoad b) s = .next (s.writeFr b).resultNone := accept_ready hf

/-- Settles O32: a load stores every byte, whatever flags it combines (10_state.md R26). -/
theorem frLoadRule : Obligations.FrLoadRule := fun b =>
  ⟨decode_load rfl rfl, fun _ hf => exec_frLoad b hf⟩

/-- Settles O33: each query answers its own bit of FR. -/
theorem frQueries : Obligations.FrQueries :=
  ⟨boolQueryRule_of_exec rfl fun _ => rfl, boolQueryRule_of_exec rfl fun _ => rfl,
    boolQueryRule_of_exec rfl fun _ => rfl, boolQueryRule_of_exec rfl fun _ => rfl⟩

end Sys2Proof.Machine

/-!
The interrupt mask as a set of sources (42_interrupt_mask.md R81, R87, R88): ALL_MASK holds every source, a source already in a mask
is added to no effect, and sanitising keeps every source.
-/

namespace Sys2Proof.Machine

section
variable {m : Byte} {ss : List Source}

theorem sanitize_eq (b : Byte) : sanitize b = b &&& 0x70#8 := by rw [sanitize, allMask_eq]

theorem maskContains_sanitize (b : Byte) (x : Source) : maskContains (sanitize b) x = maskContains b x := by
  cases x <;> simp [maskContains, sanitize_eq, bitOf]

/-- As a word, a mask within its three bits has no other bit. -/
theorem setWidth_and_eq_zero_of_within : m &&& 0x8F#8 = 0x00#8 → m.setWidth 16 &&& 0xFF8F#16 = 0x0000#16 := by
  revert m; decide

theorem maskContains_allMask (x : Source) : maskContains allMask x = true := by cases x <;> rfl

theorem maskWith_of_maskContains {x : Source} : maskContains m x = true → maskWith m x = m := by
  revert m
  cases x <;> decide

/-- The mask with exactly these sources: what IM_BUILD leaves in MR (30_encoding.md R62). -/
def sourcesMask (ss : List Source) : Byte := ss.foldr (fun x m => sourceMask x ||| m) 0x00#8

theorem sourcesMask_cons (x : Source) (ss : List Source) : sourcesMask (x :: ss) = maskWith (sourcesMask ss) x :=
  BitVec.or_comm _ _

theorem maskContains_sourcesMask (x : Source) (ss : List Source) :
    maskContains (sourcesMask ss) x = decide (x ∈ ss) := by
  induction ss with
  | nil => exact BitVec.getLsbD_zero
  | cons y ys ih => simp [sourcesMask_cons, maskContains_maskWith, ih]

theorem allMask_or_sourcesMask (ss : List Source) : allMask ||| sourcesMask ss = allMask := by
  induction ss with
  | nil => exact BitVec.or_zero
  | cons x xs ih =>
    rw [sourcesMask_cons, maskWith, ← BitVec.or_assoc, ih]
    exact maskWith_of_maskContains (maskContains_allMask x)

theorem or_allMask_of_maskContains (h : ∀ x, maskContains m x = true) : m ||| allMask = m := by
  have hadd (x : Source) : m ||| sourceMask x = m := maskWith_of_maskContains (h x)
  rw [allMask, ← BitVec.or_assoc, ← BitVec.or_assoc, hadd, hadd, hadd]

theorem sourcesMask_of_all (h : ∀ x, x ∈ ss) : sourcesMask ss = allMask := by
  have hall : sourcesMask ss ||| allMask = sourcesMask ss :=
    or_allMask_of_maskContains fun x => by simp [maskContains_sourcesMask, h x]
  rw [← hall, BitVec.or_comm, allMask_or_sourcesMask]

end

end Sys2Proof.Machine

/-!
The operations of unit IM (42_interrupt_mask.md R82 to R90): a writer leaves a mask and no result, so a sequence of writers leaves
its last one's mask.
-/

namespace Sys2Proof.Machine

/-- What every writer of MR leaves behind: MR defined, this mask in it, and no result. -/
def State.withMask (s : State) (m : Byte) : State := (s.writeMr m).resultNone

section
variable {s : State} {m : Byte} {x : Source}

/-! What each operation does, for a builder or a query as a function of its source -/

theorem exec_imEmpty (hf : s.fault = false) : exec .imEmpty s = .next (s.withMask 0x00#8) := accept_ready hf

theorem exec_imAll (hf : s.fault = false) : exec .imAll s = .next (s.withMask 0x70#8) := by
  rw [← allMask_eq]
  exact accept_ready hf

theorem exec_imLoad (b : Byte) (hf : s.fault = false) : exec (.imLoad b) s = .next (s.withMask (b &&& 0x70#8)) := by
  rw [← sanitize_eq]
  exact accept_ready hf

/-- The three builders are one function of their source. -/
theorem exec_imWith_eq (x : Source) (s : State) :
    exec (imWith x) s = withMr (imWith x) s fun m => .next (s.withMask (maskWith m x)) := by
  cases x <;> rfl

theorem exec_imWith (x : Source) (hf : s.fault = false) (hd : s.mrDef = true) :
    exec (imWith x) s = .next (s.withMask (maskWith s.mr x)) := by
  rw [exec_imWith_eq, withMr_ready hf hd]

theorem exec_imWith_withMask (x : Source) (hf : s.fault = false) :
    exec (imWith x) (s.withMask m) = .next (s.withMask (maskWith m x)) := exec_imWith (s := s.withMask m) x hf rfl

theorem exec_imContains_withMask (x : Source) (hf : s.fault = false) :
    exec (imContains x) (s.withMask m) = .next ((s.withMask m).resultBool (maskContains m x)) := by
  cases x <;> exact accept_ready hf

/-! Sequences that start from a mask -/

/-- The builders add their sources to the mask they find. -/
theorem runAll_imWith_withMask (ss : List Source) (hf : s.fault = false) :
    runAll (ss.map imWith) (s.withMask m) = .next (s.withMask (m ||| sourcesMask ss)) := by
  induction ss generalizing m with
  | nil => exact congrArg (Host.Outcome.next <| s.withMask ·) BitVec.or_zero.symm
  | cons x xs ih =>
    rw [List.map_cons, runAll_cons_next (exec_imWith_withMask x hf), ih, sourcesMask_cons, maskWith, maskWith,
      BitVec.or_assoc, BitVec.or_comm (sourceMask x)]

theorem runAll_imBuild (ss : List Source) (hf : s.fault = false) :
    runAll (expand (.imBuild ss)) s = .next (s.withMask (sourcesMask ss)) := by
  rw [expand, runAll_cons_next (exec_imEmpty hf), runAll_imWith_withMask ss hf, BitVec.zero_or]

theorem runAll_imWith_imWith (a b : Source) (hf : s.fault = false) (hd : s.mrDef = true) :
    runAll [imWith a, imWith b] s = .next (s.withMask (maskWith (maskWith s.mr a) b)) := by
  rw [runAll_cons_next (exec_imWith a hf hd), runAll_cons_next (exec_imWith_withMask b hf), runAll]

theorem runAll_imLoad_imContains (b : Byte) (x : Source) (hf : s.fault = false) :
    runAll [.imLoad b, imContains x] s =
      .next ((s.withMask (b &&& 0x70#8)).resultBool (maskContains b x)) := by
  rw [runAll_cons_next (exec_imLoad b hf), runAll_cons_next (exec_imContains_withMask x hf), ← sanitize_eq,
    maskContains_sanitize, runAll]

theorem builderRule_imWith {w : Word} (x : Source) (hw : decode w = .ok (imWith x)) :
    BuilderRule (imWith x) w (sourceMask x) := by
  refine ⟨hw, fun s hf hd => ?_, fun s hf hd => ?_⟩
  · rw [exec_imWith x hf hd, hd]
    rfl
  · rw [exec_imWith_eq, withMr_undefined hf hd, decode_eq_ok_iff.1 hw]
    rfl

theorem imRaw_queryRule : QueryRule .imRaw 0x9400#16 .mr 0b001#3 fun s => s.mr.setWidth 16 :=
  queryRule_of_exec (k := .byte) rfl fun _ => rfl

end

/-- Settles O39: the builders add to a set, where order and repetition do not count. -/
theorem maskLaws : Obligations.MaskLaws := by
  intro s hf hd a b
  refine ⟨⟨_, runAll_imWith_imWith a b hf hd, ?_⟩, ⟨_, runAll_imWith_imWith a a hf hd, ?_⟩⟩
  · rw [runAll_imWith_imWith b a hf hd, maskWith_comm]
  · rw [exec_imWith a hf hd, maskWith_idem]

/-- Settles O40: IM_BUILD adds its sources to the empty mask. -/
theorem imBuild : Obligations.ImBuild := by
  intro ss s hf
  refine ⟨_, runAll_imBuild ss hf, rfl, fun x => ?_, fun hall => ?_⟩
  · rw [exec_imContains_withMask x hf, maskContains_sourcesMask, boolWord_eq]
    rfl
  · rw [exec_imAll hf, sourcesMask_of_all hall, allMask_eq]

/-- Settles O34: both starts write MR without reading it. -/
theorem imStart : Obligations.ImStart :=
  ⟨rfl, rfl, fun _ hf => ⟨exec_imEmpty hf, exec_imAll hf⟩⟩

/-- Settles O35: the three builders are one function of their source. -/
theorem imWithRule : Obligations.ImWithRule :=
  ⟨builderRule_imWith .txFailed rfl, builderRule_imWith .txOk rfl, builderRule_imWith .dataReady rfl⟩

/-- Settles O36: a query of each source's bit, which sanitising does not touch. -/
theorem imContainsRule : Obligations.ImContainsRule := by
  refine ⟨boolQueryRule_of_exec rfl fun _ => rfl, boolQueryRule_of_exec rfl fun _ => rfl,
    boolQueryRule_of_exec rfl fun _ => rfl, rfl, fun b s hf => ?_⟩
  refine List.forall_mem_map (l := [Source.txFailed, .txOk, .dataReady]) (f := fun x => (imContains x, bitOf x)) |>.2 ?_
  exact fun x _ => ⟨_, runAll_imLoad_imContains b x hf, (boolWord_eq _).symm, rfl⟩

/-- Settles O37: a load keeps the byte's three mask bits. -/
theorem imLoadRule : Obligations.ImLoadRule := fun b =>
  ⟨decode_load rfl rfl, fun _ hf => exec_imLoad b hf⟩

/-- Settles O38: the query's rule, and what a mask within its three bits leaves of it. -/
theorem imRawRule : Obligations.ImRawRule := by
  refine ⟨imRaw_queryRule, fun s hf hd hm => ?_⟩
  obtain ⟨-, hraw, -⟩ := imRaw_queryRule
  exact ⟨_, hraw s hf hd, setWidth_and_eq_zero_of_within hm⟩

/-- Settles O41: a load followed by IM_RAW, and a byte with no stray bit is what the load keeps. -/
theorem imSanitize : Obligations.ImSanitize := by
  intro b s hf
  obtain ⟨-, hraw, -⟩ := imRaw_queryRule
  have hrun := (runAll_cons_next (is := [.imRaw]) (exec_imLoad b hf)).trans (runAll_cons_next (hraw _ hf rfl))
  refine ⟨hrun, fun hb => ⟨_, hrun, ?_⟩⟩
  exact congrArg (BitVec.setWidth 16) ((sanitize_eq b).symm.trans (sanitize_of_within hb))

end Sys2Proof.Machine

/-!
A step by what the block takes from the port: an operation, nothing or an idle sample where no fault has been taken
(60_exceptions.md R101), a reset or nothing at all where one has (R98, R99).
-/

namespace Sys2Proof.Machine

section
variable {s t : State} {rest : List PortIn} {w : Word} {i : Instr}

theorem State.applyReset_looksReset (s : State) : s.applyReset.LooksReset := ⟨rfl, rfl, rfl, rfl, rfl, rfl, rfl, rfl⟩

theorem exists_rst_of_afterReset {l : List PortIn} (h : afterReset l = some rest) : ∃ p ∈ l, p.rst = true := by
  have hn : ¬ ∀ p ∈ l, p.rst = false := by simp [← afterReset_eq_none_iff, h]
  simpa using hn

theorem step_of_fetch_reset (h : fetch s = .reset rest) : step s = .next (s.withInputs rest).applyReset := by
  simp only [step, h]

theorem runWord_of_faulted (w : Word) (hf : s.fault = true) : runWord w s = .fault .stuck := by
  unfold runWord
  cases decode w with
  | ok i => exact exec_of_faulted i hf
  | error e => exact accept_faulted hf

theorem runWord_goes_on (w : Word) (hf : s.fault = false) : ∃ t, runWord w s = .next t := by
  unfold runWord
  cases decode w with
  | ok i => exact exec_goes_on i hf
  | error e => exact accept_goes_on hf ⟨_, rfl⟩

theorem opAccept_faulted (p : PortIn) (hf : s.fault = true) : opAccept s p = false := by simp [opAccept, hf]

/-- A faulted block takes the next reset, and is stuck where there is none. -/
theorem step_faulted_cases (hf : s.fault = true) :
    (∃ rest, afterReset s.inputs = some rest ∧ step s = .next (s.withInputs rest).applyReset) ∨
      (afterReset s.inputs = none ∧ step s = .fault .stuck) := by
  obtain ⟨rest, hr, hx⟩ | ⟨hr, hx⟩ := fetch_faulted hf
  · exact .inl ⟨rest, hr, step_of_fetch_reset hx⟩
  · exact .inr ⟨hr, by simp only [step, hx]⟩

/-- While no fault has been taken, whatever the port gives, the block goes on. -/
theorem step_goes_on (hf : s.fault = false) : ∃ t, step s = .next t := by
  unfold step
  cases hi : s.inputs with
  | nil =>
    rw [fetch_waiting hf hi]
    exact ⟨_, rfl⟩
  | cons p rest =>
    rw [fetch_ready hf hi]
    cases p.rst with
    | true => exact ⟨_, rfl⟩
    | false =>
      cases p.opValid with
      | true => exact runWord_goes_on p.opWord hf
      | false => exact ⟨_, rfl⟩

/-- The only stop is that of a faulted block. -/
theorem step_next_or_stuck (s : State) : (∃ t, step s = .next t) ∨ (s.fault = true ∧ step s = .fault .stuck) := by
  cases hf : s.fault with
  | true => exact (step_faulted_cases hf).imp (fun ⟨_, _, hx⟩ => ⟨_, hx⟩) fun ⟨_, hx⟩ => ⟨rfl, hx⟩
  | false => exact .inl (step_goes_on hf)

theorem step_of_legal (hi : s.inputs = presentWord w :: rest) (hf : s.fault = false) (hd : decode w = .ok i) :
    step s = exec i (s.withInputs rest) :=
  stepRunsDecoded s (presentWord w) rest i hf hi rfl rfl hd

/-- Only a reset leaves a fault (60_exceptions.md R99). -/
theorem step_faulted_next (hf : s.fault = true) (h : step s = .next t) :
    ∃ p ∈ s.inputs, p.rst = true ∧ t.LooksReset := by
  obtain ⟨rest, hr, hx⟩ | ⟨-, hx⟩ := step_faulted_cases hf
  · obtain rfl := Host.Outcome.next.inj (hx.symm.trans h)
    obtain ⟨p, hp, hrst⟩ := exists_rst_of_afterReset hr
    exact ⟨p, hp, hrst, State.applyReset_looksReset _⟩
  · exact nomatch hx.symm.trans h

end

/-- Settles O16: a faulted block takes a reset or is stuck, and one that is not faulted goes on. -/
theorem faultedStuck : Obligations.FaultedStuck := by
  refine ⟨fun i _ hf => exec_of_faulted i hf, fun w _ hf => runWord_of_faulted w hf, fun _ => step_faulted_of_no_reset,
    fun _ p hf => opAccept_faulted p hf, fun _ _ => step_faulted_next, ?_, fun s r h => ?_, fun s r h => ?_⟩
  · rintro s hf ⟨-, hq⟩
    exact nomatch hf.symm.trans hq
  · obtain ⟨t, ht⟩ | ⟨hf, -⟩ := step_next_or_stuck s
    · exact nomatch ht.symm.trans h
    · exact hf
  · obtain ⟨t, ht⟩ | ⟨-, hx⟩ := step_next_or_stuck s
    · exact nomatch ht.symm.trans h
    · exact nomatch hx.symm.trans h

/-- Settles O10: the first reset ahead is the one after the samples without `rst`. -/
theorem resetReached : Obligations.ResetReached := by
  intro s before p rest hf hi hb hp
  have hr : afterReset s.inputs = some rest := hi ▸ afterReset_append_reset hb hp
  have hx : fetch s = .reset rest := by simp only [fetch, hf, hr, if_true]
  exact ⟨_, step_of_fetch_reset hx, State.applyReset_looksReset _, rfl⟩

/-- Settles O12: with nothing presented the step takes `waiting`, and `idle` for a sample with neither reset nor operation. -/
theorem waits : Obligations.Waits := by
  refine ⟨fun s hf hi => ?_, fun s p rest hf hi hr hv => ?_⟩
  · simp only [step, fetch_waiting hf hi]
  · have hx : fetch s = .idle rest := by simp [fetch_ready hf hi, hr, hv]
    simp only [step, hx]
    rfl

end Sys2Proof.Machine

/-!
The faults an operation takes (60_exceptions.md R91, R93, R95): each writes the fault registers and nothing else, and with neither
of the two causes the operation completes.
-/

namespace Sys2Proof.Machine

section
variable {s t : State} {i : Instr}

theorem causeCode_ne_zero (c : FaultCause) : causeCode c ≠ 0b00#2 := by cases c <;> decide

/-- An operation that takes a fault does nothing else. -/
theorem Effect.eq_takeFault (he : Effect i s t) (hf : s.fault = false) (ht : t.fault = true) :
    ∃ c, t = s.takeFault c (encode i) := by
  cases he with
  | undefinedRead => exact ⟨_, rfl⟩
  | reservedPipe => exact ⟨_, rfl⟩
  | result | wroteSr | wroteFr | wroteMr => exact nomatch hf.symm.trans ht

/-- An operation that meets no check takes no fault. -/
theorem Effect.completes (he : Effect i s t) (hf : s.fault = false) (hu : readsUndefined i s = false)
    (hp : ¬ (pipeCheckApplies i s = true ∧ s.pipeReserved = true)) : t.fault = false := by
  cases he with
  | undefinedRead h => exact nomatch hu.symm.trans h
  | reservedPipe _ hc h => exact absurd ⟨hc, h⟩ hp
  | result | wroteSr | wroteFr | wroteMr => exact hf

theorem exec_srReport_reserved (hf : s.fault = false) (hd : s.srDef = true) (h7 : srInvalid s.sr = false)
    (hp : s.pipeReserved = true) : exec .srReport s = .next (s.takeFault .reservedPipe (encode .srReport)) := by
  rw [exec_srReport hf hd, srReport_of_reserved h7 (State.pipeReserved_iff.1 hp), orFault]

theorem pipeCheckApplies_iff :
    pipeCheckApplies i s = true ↔ i = .srPipe ∨ i = .srReport ∧ srInvalid s.sr = false := by
  simp [pipeCheckApplies, srInvalid]

theorem exec_of_pipeReserved (hf : s.fault = false) (hu : readsUndefined i s = false)
    (hc : pipeCheckApplies i s = true) (hp : s.pipeReserved = true) :
    exec i s = .next (s.takeFault .reservedPipe (encode i)) := by
  have hd := srDef_of_pipeCheckApplies hu hc
  obtain rfl | ⟨rfl, h7⟩ := pipeCheckApplies_iff.1 hc
  · exact exec_srPipe_reserved hf hd hp
  · exact exec_srReport_reserved hf hd h7 hp

end

/-- Settles O15: of all a step can do, only an illegal word or an operation's own fault sets FAULT. -/
theorem faultEntry : Obligations.FaultEntry := by
  intro s t h hf ht
  obtain ⟨-, rfl⟩ | ⟨-, rest, rfl⟩ | ⟨rest, rfl⟩ | ⟨-, p, rest, hi, -, -, h⟩ := step_next_cases h
  · exact nomatch hf.symm.trans ht
  · exact nomatch hf.symm.trans ht
  · exact nomatch ht
  · suffices hc : ∃ c, t = (s.withInputs rest).takeFault c p.opWord by
      obtain ⟨c, rfl⟩ := hc
      exact ⟨p, rest, causeCode c, hi, causeCode_ne_zero c, rfl⟩
    obtain ⟨i, hd, h⟩ | ⟨e, -, rfl⟩ := h
    · rw [← decode_eq_ok_iff.1 hd]
      exact (exec_effect h).2.eq_takeFault hf ht
    · exact ⟨_, rfl⟩

/-- Settles O8: each check decides where those before it pass, and a word that passes them all completes. -/
theorem checkOrder : Obligations.CheckOrder := by
  intro s w rest hi
  refine ⟨fun hf => ⟨opAccept_faulted _ hf, runWord_of_faulted w hf⟩, fun hf => ⟨?_, ?_, ?_, ?_⟩⟩
  · intro e he
    exact step_of_illegal ⟨e, he⟩ hf hi
  · intro i hd hu
    obtain rfl := decode_eq_ok_iff.1 hd
    exact (step_of_legal hi hf hd).trans (exec_of_readsUndefined hf hu)
  · intro i hd hu hc hp
    obtain rfl := decode_eq_ok_iff.1 hd
    exact (step_of_legal hi hf hd).trans (exec_of_pipeReserved hf hu hc hp)
  · intro i hd hu hp
    obtain ⟨t, ht⟩ := exec_goes_on (s := s.withInputs rest) i hf
    exact ⟨t, (step_of_legal hi hf hd).trans ht, ht, (exec_effect ht).2.completes hf hu hp⟩

end Sys2Proof.Machine

/-!
Reset at the head of the port (70_reset_and_hazards.md R109, R111): it overrides a word presented with it and a fault taken before.
-/

namespace Sys2Proof.Machine

section
variable {s : State} {p : PortIn} {rest : List PortIn}

theorem fetch_of_rst (hi : s.inputs = p :: rest) (hp : p.rst = true) : fetch s = .reset rest := by
  cases hf : s.fault with
  | true => simp only [fetch, hf, hi, afterReset, hp, if_true]
  | false => simp only [fetch_ready hf hi, hp, if_true]

theorem opAccept_of_rst (s : State) (hp : p.rst = true) : opAccept s p = false := by simp [opAccept, hp]

end

/-- Settles O9: the fetch takes a sample that asserts `rst` as a reset, and only a reset leaves a fault. -/
theorem resetStep : Obligations.ResetStep :=
  ⟨fun _ _ _ hi hp => ⟨_, step_of_fetch_reset (fetch_of_rst hi hp), State.applyReset_looksReset _, rfl⟩,
    fun s _ hp => opAccept_of_rst s hp, fun _ _ => step_faulted_next⟩

end Sys2Proof.Machine
